-- ==== Sys2Proof/Word.lean ====
section
/-! DEFINITION. The plain word types: the data unit and the command word (spec 00 R15, 20 R48,
30 R57). Counts and lengths are natural numbers, and so are times: every sum of times is representable in `TIME_W` bits
(41 R105). Log entry 8. -/

namespace Sys2Proof

/-- The data unit of the block: 8 bits, moved whole (R48). -/
abbrev Byte := BitVec 8

/-- A command word `CMD` (R57). -/
abbrev CmdWord := BitVec 16

end Sys2Proof
end

