-- ==== Sys2Proof/Config.lean ====
section
/-! DEFINITION. The parameters of an instance (spec 00 R5 to R14) and the Message Decoder (00 R12, 60 R125).
What the spec leaves OPEN has no value here. -/

namespace Sys2Proof

/-- The parameters R6 to R11 of one instance, fixed for its lifetime (R14). -/
structure Config where
  /-- `PREFIX`, the burst-start prefix (R6). -/
  prefixBytes : List Byte
  /-- `TERM`, the terminating marker; empty means that there is none (R7). -/
  termBytes : List Byte
  /-- `MAX_LEN`, the maximum payload length (R8). -/
  maxLen : Nat
  /-- `HOLD_OFF`, the completion hold-off (R9). -/
  holdOff : Nat
  /-- `IBT`, the inter-byte timeout, or none (R10). -/
  ibt : Option Nat
  /-- `TIME_W`, the width of every time in bits (R11). -/
  timeW : Nat
  deriving DecidableEq, Repr, Inhabited

/-- `MAX_BURSTS`, 3 for this hardware (R5). -/
abbrev Config.maxBursts : Nat := 3

/-- The constraints of R13 (those on `TERM_LEN`, `IBT` and `MAX_BURSTS` hold by type). -/
def Config.legal (c : Config) : Bool :=
  decide (1 ≤ c.prefixBytes.length) && decide (1 ≤ c.maxLen) && decide (1 ≤ c.timeW)
    && decide (c.holdOff < 2 ^ c.timeW)

/-- The integrator's choice of parameters (R135). OPEN: no body, nothing is known of it. Log entry 4. -/
opaque Config.chosen : Config

/-- The configuration of the block at `State.reset`: the integrator's choice, which R135 requires to be
legal (R13); an illegal choice is replaced by a legal one. Nothing is provable of it but that it is legal.
DESIGN CHOICE, log entry 4, safe. -/
def Config.hw : Config :=
  if Config.chosen.legal then Config.chosen
  else { prefixBytes := [0], termBytes := [], maxLen := 1, holdOff := 0, ibt := none, timeW := 1 }

/-- `Message`, an OPEN type the block carries unchanged (R12), as an opaque token. Log entry 6. -/
structure Message where
  token : Nat
  deriving DecidableEq, Repr, Inhabited

/-- `MessageDecodeErr`, an OPEN type the block carries unchanged (R12), as an opaque token. Log entry 6. -/
structure MessageDecodeErr where
  token : Nat
  deriving DecidableEq, Repr, Inhabited

/-- `result = Ok(Message) | Err(MessageDecodeErr)` (R16). -/
inductive DecodeResult where
  | ok (m : Message)
  | err (e : MessageDecodeErr)
  deriving DecidableEq, Repr, Inhabited

/-- `DECODE`, the Message Decoder: total, pure, uninterpreted (R12, R125). No body: a claim holds for every
decoder. DESIGN CHOICE, log entry 6, safe. -/
opaque Config.decode : List Byte → DecodeResult

end Sys2Proof
end

