-- ==== Sys2Proof/Syntax.lean ====
section
/-! DEFINITION. The five commands (spec 30 R58, spec/opcode_table.json). -/

namespace Sys2Proof

/-- One constructor per row of spec/opcode_table.json. `now` is no field of a command word: it travels beside
the word (R56) and stands in the state. -/
inductive Instr where
  /-- `NOP` (R71). -/
  | nop
  /-- `CARRIER p` (R72): `p` is the carrier-present value `d[0]` (R59). -/
  | carrier (p : Bool)
  /-- `BYTE b` (R75): `b` is the received byte `d` (R59). -/
  | byte (b : Byte)
  /-- `TICK` (R90). -/
  | tick
  /-- `FRESET` (R83). -/
  | freset
  deriving DecidableEq, Repr

end Sys2Proof
end

