-- ==== Sys2Proof/WellFormed.lean ====
section
/-! DEFINITION. Well-formedness checks: of a command's operands (spec 30 R59), of a configuration (00 R13, check by
check), of a time input (30 R56). -/

namespace Sys2Proof

/-- Every operand a constructor of `Instr` can hold is one the encoding admits (R59: `p` is 0 or 1, `b` is any of
the 256 values), so each command is well formed by its type. -/
def Instr.wf : Instr → Bool
  | .nop => true
  | .carrier _ => true
  | .byte b => decide (b.toNat < 256)
  | .tick => true
  | .freset => true

/-- R13: `PREFIX_LEN` ≥ 1. -/
def Config.prefixOk (c : Config) : Bool := decide (1 ≤ c.prefixBytes.length)

/-- R13: `MAX_LEN` ≥ 1. -/
def Config.maxLenOk (c : Config) : Bool := decide (1 ≤ c.maxLen)

/-- R13: `TIME_W` ≥ 1. -/
def Config.timeWOk (c : Config) : Bool := decide (1 ≤ c.timeW)

/-- R13: `HOLD_OFF` < 2^`TIME_W`. -/
def Config.holdOffOk (c : Config) : Bool := decide (c.holdOff < 2 ^ c.timeW)

/-- All of R13's checks; the same as `Config.legal`. -/
def Config.wf (c : Config) : Bool := c.prefixOk && c.maxLenOk && c.timeWOk && c.holdOffOk

/-- R56: `now` is a `TIME_W`-bit value. -/
def Config.timeOk (c : Config) (t : Nat) : Bool := decide (t < 2 ^ c.timeW)

end Sys2Proof
end

