-- ==== Sys2Proof/Decode.lean ====
section
/-! DEFINITION. The command decoder and encoder (spec 30 R57 to R62, R67), total on any 16-bit word. -/

namespace Sys2Proof

/-- Why a word is illegal (R60, R61). `FAULT` records the code only (R113), so no state holds this reason. -/
inductive IllegalReason where
  /-- a bit of `z` = `CMD[15:11]` is set (R60) -/
  | zNotZero
  /-- a must-be-zero bit of `d` is set (R59, R60) -/
  | dataNotZero
  /-- `op` is 0b101, 0b110 or 0b111 (R61) -/
  | reservedOpcode
  deriving DecidableEq, Repr

/-- What the decoder answers: one of the five commands or `ILLEGAL_COMMAND` (R62), with the reason. -/
inductive Decoded where
  | instr (i : Instr)
  | illegal (why : IllegalReason)
  deriving DecidableEq, Repr

/-- `z` = `CMD[15:11]` (R57). -/
def zField (w : CmdWord) : BitVec 5 := w.extractLsb' 11 5

/-- `op` = `CMD[10:8]` (R57). -/
def opField (w : CmdWord) : BitVec 3 := w.extractLsb' 8 3

/-- `d` = `CMD[7:0]` (R57). -/
def dField (w : CmdWord) : Byte := w.extractLsb' 0 8

/-- A command whose `d` must be 0x00 (R59: NOP, TICK, FRESET). -/
def decodeNoOperand (i : Instr) (d : Byte) : Decoded :=
  if d = 0 then .instr i else .illegal .dataNotZero

/-- CARRIER: `d[0]` is `p`, `d[7:1]` must be 0 (R59). -/
def decodeCarrier (d : Byte) : Decoded :=
  if d.extractLsb' 1 7 = 0 then .instr (.carrier (d.getLsbD 0)) else .illegal .dataNotZero

/-- The decoder: R58's opcode map under R60's and R61's checks. -/
def decode (w : CmdWord) : Decoded :=
  if zField w ≠ 0 then .illegal .zNotZero
  else if opField w = 0b000 then decodeNoOperand .nop (dField w)
  else if opField w = 0b001 then decodeCarrier (dField w)
  else if opField w = 0b010 then .instr (.byte (dField w))
  else if opField w = 0b011 then decodeNoOperand .tick (dField w)
  else if opField w = 0b100 then decodeNoOperand .freset (dField w)
  else .illegal .reservedOpcode

/-- The opcode `op` of a command (R58). -/
def Instr.opcode : Instr → BitVec 3
  | .nop => 0b000
  | .carrier _ => 0b001
  | .byte _ => 0b010
  | .tick => 0b011
  | .freset => 0b100

/-- The data field `d` of a command (R59). -/
def Instr.data : Instr → Byte
  | .nop => 0
  | .carrier p => if p then 1 else 0
  | .byte b => b
  | .tick => 0
  | .freset => 0

/-- The encoder: `z` = 0, `op`, `d` side by side (R57). -/
def encode (i : Instr) : CmdWord := (0 : BitVec 5) ++ i.opcode ++ i.data

/-- The command a table row's word decodes to: the low `nbits` bits of `w` as one 16-bit command word (R57: one
format, one word), none where the decoder refuses it. -/
def decodeTableWord (nbits w : Nat) : Option Instr :=
  match decode (BitVec.ofNat 16 (w % 2 ^ nbits)) with
  | .instr i => some i
  | .illegal _ => none

end Sys2Proof
end

