-- ==== Sys2Proof/Machine/State.lean ====
section
/-! DEFINITION. The state of the block (spec 10 R20 to R31), the outputs of its latest step (10 R33), its inputs and
parameters, and the state after hardware reset (70 R133). -/

namespace Sys2Proof.Machine

/-- `FST` (R20). Codes: `Machine/Flags.lean`. -/
inductive FramerState where
  | noCarrier
  | searching
  | reading
  deriving DecidableEq, Repr

/-- `TST` as held between steps (R25): `Message(result)` exists only within the finalizing step. -/
inductive TransportState where
  | idle
  | assembling
  deriving DecidableEq, Repr

/-- `FAULT` (R31, R113). -/
inductive FaultCode where
  | none
  /-- `CMD` is no legal command word -/
  | illegalCommand
  /-- `now < TLAST` -/
  | timeRegression
  /-- `now > TIME_LIMIT` -/
  | timeRange
  deriving DecidableEq, Repr

/-- An event of the event surface (R16, R63). -/
inductive Event where
  | noCarrier
  | searching
  | reading
  | ready (result : DecodeResult)
  deriving DecidableEq, Repr

/-- `ANOM`, a set drawn from TRUNCATED and OVERCOUNT (R33). -/
structure Anom where
  truncated : Bool
  overcount : Bool
  deriving DecidableEq, Repr

/-- The empty anomaly set. -/
def Anom.empty : Anom := { truncated := false, overcount := false }

/-- One filled slot of the burst history (R27): `bytes` is `HBUF[k][0..HLEN[k])`, `arrival` is `HARR[k]`. -/
structure Slot where
  bytes : List Byte
  arrival : Nat
  deriving DecidableEq, Repr

/-- A command: the pair (`CMD`, `now`) of R56. -/
structure Command where
  word : CmdWord
  now : Nat
  deriving DecidableEq, Repr

/-- One thing the host does at the block's inputs: issue a command (R56), or assert the separate hardware reset
input (R68, R131). -/
inductive HostInput where
  | command (c : Command)
  | reset
  deriving DecidableEq, Repr

/-- The state. Registers first (R20 to R31), then the outputs of the latest step (R33, R125), then the MODEL's own
fields for what R18 calls parameters and inputs of the step (log entries 1 to 4). `WCNT`, `PLEN`, `HCNT` and
`HLEN[k]` are the lengths of the lists that hold the filled bytes and slots (log entry 5). -/
structure State where
  /-- `FST` (R20) -/
  fst : FramerState
  /-- `WIN[0..WCNT)`, oldest first (R22) -/
  win : List Byte
  /-- `PBUF[0..PLEN)` (R23) -/
  pbuf : List Byte
  /-- `LBT` (R24) -/
  lbt : Nat
  /-- `TST` (R25) -/
  tst : TransportState
  /-- the slots 0..`HCNT`-1 of the burst history, in arrival order (R26, R27) -/
  hist : List Slot
  /-- `DL` (R28) -/
  dl : Nat
  /-- `FLUSH` (R29) -/
  flush : Bool
  /-- `TLAST` (R30) -/
  tlast : Nat
  /-- `FAULT` (R31) -/
  fault : FaultCode
  /-- `EVOUT` of the latest step (R33) -/
  evout : List Event
  /-- `ANOM` of the latest step (R33) -/
  anom : Anom
  /-- the decoder request of the latest step: the payload presented to `DECODE` (R125), if any -/
  decReq : Option (List Byte)
  /-- the parameters of the instance (R6 to R11); no step writes them (R14) -/
  cfg : Config
  /-- the time input `now` sampled with the command being processed (R56) -/
  now : Nat
  /-- what the host has supplied and the block has not taken yet, in time order -/
  input : List HostInput
  deriving DecidableEq, Repr

/-- Every register at its reset value (R133), with no output (R131: no event and no anomaly), for an instance with
the parameters `c`. -/
def State.resetWith (c : Config) : State where
  fst := .noCarrier
  win := []
  pbuf := []
  lbt := 0
  tst := .idle
  hist := []
  dl := 0
  flush := false
  tlast := 0
  fault := .none
  evout := []
  anom := Anom.empty
  decReq := none
  cfg := c
  now := 0
  input := []

/-- The block right after hardware reset, before the host supplies a command (R132, R133). -/
def State.reset : State := State.resetWith Config.hw

/-- The ways in which the block stops. -/
inductive Fault where
  /-- A command reaches a block with `FAULT ≠ 0`: there is no step, the block is stuck until hardware reset (R117).
  Raised by the step frame `Machine.frame` of every command, and by `Machine.step` when the host's inputs hold no
  hardware reset. It is the spec's own stuck state: safe. -/
  | stuck (code : FaultCode)
  deriving DecidableEq, Repr

/-- The cases to which the model gives no step. -/
inductive Refusal where
  /-- An instruction whose meaning is not written. No arm answers it now; safe. -/
  | notModelled (mnemonic : String)
  /-- The host has supplied nothing: the block never produces a step without a command (R145). Raised by
  `Machine.step` only; safe. Log entry 2. -/
  | noCommand
  deriving DecidableEq, Repr

/-- The outcome of a step of this machine. -/
abbrev Out := Host.Outcome State Fault Refusal

end Sys2Proof.Machine
end

