-- ==== Sys2Proof/Machine/Operands.lean ====
section
/-! DEFINITION. What a step reads: the counts and lengths of the buffers (spec 10 R22 to R27), a buffer byte (00 R15,
20 R43, R44), the tail of the payload (40 R81), the shifted prefix window (40 R77), the time comparisons (40 R70,
41 R91, R92, R105). -/

namespace Sys2Proof.Machine

/-- `PREFIX_LEN` (R6). -/
def prefixLen (c : Config) : Nat := c.prefixBytes.length

/-- `TERM_LEN` (R7). -/
def termLen (c : Config) : Nat := c.termBytes.length

/-- `TIME_LIMIT = 2^TIME_W - 1 - HOLD_OFF` (R70). -/
def timeLimit (c : Config) : Nat := 2 ^ c.timeW - 1 - c.holdOff

/-- `WCNT` (R22). -/
def State.wcnt (s : State) : Nat := s.win.length

/-- `PLEN` (R23). -/
def State.plen (s : State) : Nat := s.pbuf.length

/-- `HCNT` (R26). -/
def State.hcnt (s : State) : Nat := s.hist.length

/-- `HLEN[k]` (R27); 0 for a slot that is not filled (R100, R133). -/
def State.hlen (s : State) (k : Nat) : Nat := (s.hist[k]?.map fun b => b.bytes.length).getD 0

/-- `HARR[k]` (R27); 0 for a slot that is not filled (R100, R133). -/
def State.harr (s : State) (k : Nat) : Nat := (s.hist[k]?.map fun b => b.arrival).getD 0

/-- `BufRead(buf, i)` (R15): the byte, or none at or beyond the fill length, where no byte is held (R44). -/
def bufRead (buf : List Byte) (i : Nat) : Option Byte := buf[i]?

/-- `BufWrite(buf, PLEN, v)` with `PLEN <- PLEN + 1`: the one way a buffer byte is written (R45, R80). -/
def bufAppend (buf : List Byte) (v : Byte) : List Byte := buf ++ [v]

/-- The window after the byte `b` (R77): a full window drops its oldest byte first. -/
def shiftWindow (c : Config) (w : List Byte) (b : Byte) : List Byte :=
  bufAppend (if w.length = prefixLen c then w.drop 1 else w) b

/-- The window is full and equals `PREFIX` (R77). -/
def windowMatches (c : Config) (w : List Byte) : Bool :=
  decide (w.length = prefixLen c) && decide (w = c.prefixBytes)

/-- `PBUF[0..PLEN-TERM_LEN)`, the payload without a terminator-long tail (R81). -/
def withoutTail (c : Config) (p : List Byte) : List Byte := p.take (p.length - termLen c)

/-- `TERM_LEN > 0 and PLEN ≥ TERM_LEN and PBUF[PLEN-TERM_LEN .. PLEN) = TERM` (R81). -/
def tailIsTerminator (c : Config) (p : List Byte) : Bool :=
  decide (0 < termLen c) && decide (termLen c ≤ p.length)
    && decide (p.drop (p.length - termLen c) = c.termBytes)

/-- `IBT ≠ none and now - LBT > IBT` (R91). -/
def interByteElapsed (c : Config) (lbt now : Nat) : Bool :=
  match c.ibt with
  | none => false
  | some d => decide (d < now - lbt)

/-- `HCNT > 0 and (FLUSH = 1 or now > DL)`, the deadline check (R92). -/
def deadlinePassed (s : State) : Bool :=
  decide (0 < s.hcnt) && (s.flush || decide (s.dl < s.now))

end Sys2Proof.Machine
end

