-- ==== Sys2Proof/Machine/Flags.lean ====
section
/-! DEFINITION. Status indications and their binary codes: `is_active` (spec 10 R21), the state, fault and event codes
(10 R20, R25, 60 R113, 30 R63, R64) and the status word (10 R34). The block has no condition codes (10 R36). -/

namespace Sys2Proof.Machine

/-- The code of `FST` (R20, R64). -/
def FramerState.code : FramerState → BitVec 2
  | .noCarrier => 0b00
  | .searching => 0b01
  | .reading => 0b10

/-- The code of `TST` (R25, R64). -/
def TransportState.code : TransportState → BitVec 1
  | .idle => 0
  | .assembling => 1

/-- The fault code (R113). -/
def FaultCode.code : FaultCode → BitVec 2
  | .none => 0
  | .illegalCommand => 1
  | .timeRegression => 2
  | .timeRange => 3

/-- `kind` of an event (R63). -/
def Event.kind : Event → BitVec 2
  | .noCarrier => 0b00
  | .searching => 0b01
  | .reading => 0b10
  | .ready _ => 0b11

/-- `ok` of an event (R63): 1 for `Ready(Ok(_))` only. -/
def Event.okBit : Event → BitVec 1
  | .ready (.ok _) => 1
  | .ready (.err _) => 0
  | .noCarrier => 0
  | .searching => 0
  | .reading => 0

/-- `result` of an event (R63): the decoder's value, absent for the other kinds. -/
def Event.result : Event → Option DecodeResult
  | .ready r => some r
  | .noCarrier => none
  | .searching => none
  | .reading => none

/-- The Framer's event for a new value of `FST` (R84). -/
def FramerState.event : FramerState → Event
  | .noCarrier => .noCarrier
  | .searching => .searching
  | .reading => .reading

/-- `is_active` (R21). -/
def State.isActive (s : State) : Bool :=
  match s.fst with
  | .noCarrier => false
  | .searching => true
  | .reading => true

/-- `STATUS` (R34), computed, with its reserved bits 7 and 15 to 10 as 0 (I18). -/
def State.status (s : State) : BitVec 16 :=
  (0 : BitVec 6) ++ s.fault.code ++ (0 : BitVec 1) ++ BitVec.ofBool s.flush ++ BitVec.ofNat 2 s.hcnt
    ++ s.tst.code ++ BitVec.ofBool s.isActive ++ s.fst.code

end Sys2Proof.Machine
end

