-- ==== Sys2Proof/Machine/Ops.lean ====
section
/-! DEFINITION. The shared operations: emitting an event (spec 00 R15), taking a fault (60 R117) and the hardware reset
that ends it (60 R118, 70 R131), the frame every command runs in (40 R70), taking the next input. -/

namespace Sys2Proof.Machine

/-- `emit(ev)`: appends to the step's event list (R15). -/
def emit (ev : Event) (s : State) : State := { s with evout := s.evout ++ [ev] }

/-- `raise Fault(code)`: TAKING A FAULT (R117). `FAULT <- code`; every other register stays as it was before the
command, and the step has no event, no anomaly and no decoder request. Log entry 3. -/
def raiseFault (code : FaultCode) (s : State) : State :=
  { s with fault := code, evout := [], anom := Anom.empty, decReq := none }

/-- Hardware reset, the only way out of a fault (R118, R131): every register at its reset value, no event, no
anomaly. The parameters (R14) and what the host has supplied after the reset (`rest`) stay. Log entry 10. -/
def hardwareReset (rest : List HostInput) (s : State) : State :=
  { State.resetWith s.cfg with input := rest }

/-- The start of a step that does not fault (R70): `TLAST <- now`, `EVOUT <- []`, `ANOM <- {}`. -/
def beginStep (s : State) : State :=
  { s with tlast := s.now, evout := [], anom := Anom.empty, decReq := none }

/-- The frame of every legal command (R70, R114): no step while faulted (R117), then the time checks in their
priority (R116), then the command's own effect `body`. -/
def frame (body : State → State) (s : State) : Out :=
  if s.fault ≠ .none then .fault (.stuck s.fault)
  else if s.now < s.tlast then .next (raiseFault .timeRegression s)
  else if timeLimit s.cfg < s.now then .next (raiseFault .timeRange s)
  else .next (body (beginStep s))

/-- The frame for a word that decodes to no command (R70, R115). -/
def illegalCommand (s : State) : Out :=
  if s.fault ≠ .none then .fault (.stuck s.fault)
  else .next (raiseFault .illegalCommand s)

/-- Takes a command from the input: samples its `now` (R56). -/
def takeCommand (c : Command) (rest : List HostInput) (s : State) : State :=
  { s with now := c.now, input := rest }

/-- A faulted block takes no command (R118): of what the host supplies, the next thing that acts on it is a hardware
reset. Log entry 9. -/
def dropCommands : List HostInput → List HostInput
  | [] => []
  | .reset :: rest => .reset :: rest
  | .command _ :: rest => dropCommands rest

/-- What acts on the block next. -/
inductive Fetched where
  /-- a faulted block and no hardware reset supplied: no step (R117) -/
  | stuck (code : FaultCode)
  /-- nothing supplied: no step (R145) -/
  | idle
  /-- hardware reset (R131) -/
  | reset (rest : List HostInput)
  /-- a command (R56) -/
  | command (c : Command) (rest : List HostInput)
  deriving DecidableEq, Repr

/-- The next input the block acts on. -/
def fetch (s : State) : Fetched :=
  if s.fault = .none then
    match s.input with
    | [] => .idle
    | .reset :: rest => .reset rest
    | .command c :: rest => .command c rest
  else
    match dropCommands s.input with
    | [] => .stuck s.fault
    | .reset :: rest => .reset rest
    | .command c :: rest => .command c rest

/-- The host issues the word `w` next, at a time that the block accepts: `now = TLAST` (R114: an equal `now` is
legal). Log entry 13. -/
def supplyWord (s : State) (w : CmdWord) : State :=
  { s with input := .command { word := w, now := s.tlast } :: s.input }

end Sys2Proof.Machine
end

