-- ==== Sys2Proof/Machine/Vote.lean ====
section
/-! DEFINITION. The bit-consensus vote over the burst history (spec 41 R95 to R99) and its byte-wide form for three
bursts (41 R101). `CBUF` is the value of `consensus`: it holds nothing between steps (20 R43). -/

namespace Sys2Proof.Machine

/-- The bytes at position `i` of the contributing bursts `C(i)`, in arrival order (R97). -/
def contributors (h : List Slot) (i : Nat) : List Byte := h.filterMap fun b => bufRead b.bytes i

/-- The consensus length `L`, the longest burst's length (R96). -/
def consensusLength (h : List Slot) : Nat := h.foldr (fun b n => max b.bytes.length n) 0

/-- `ones` of R98: how many contributors have bit `j` set. -/
def onesAt (cs : List Byte) (j : Nat) : Nat := cs.countP fun b => b.getLsbD j

/-- The voted bit `j` (R98): the majority, and on a tie the bit of the earliest contributor (R99). -/
def votedBit (cs : List Byte) (j : Nat) : Bool :=
  let ones := onesAt cs j
  let zeros := cs.length - ones
  if zeros < ones then true
  else if ones < zeros then false
  else (cs.headD 0).getLsbD j

/-- The voted byte: eight independent bit lanes (R98). -/
def votedByte (cs : List Byte) : Byte := BitVec.ofFnLE fun j : Fin 8 => votedBit cs j.val

/-- `Consensus()` (R96 to R99): every position below the consensus length is voted. -/
def consensus (h : List Slot) : List Byte :=
  (List.range (consensusLength h)).map fun i => votedByte (contributors h i)

/-- `FinalPayload()` (R95): a single burst unchanged, else the consensus. -/
def finalPayload (h : List Slot) : List Byte :=
  match h with
  | [b] => b.bytes
  | _ => consensus h

/-- The bitwise majority of three bytes (R101). -/
def maj (a b c : Byte) : Byte := (a &&& b) ||| (a &&& c) ||| (b &&& c)

/-- The byte-wide form of the vote for at most three contributors (R101). -/
def votedByteWide (cs : List Byte) : Byte :=
  match cs with
  | [a, b, c] => maj a b c
  | _ => cs.headD 0

end Sys2Proof.Machine
end

