-- ==== Sys2Proof/Machine/Transport.lean ====
section
/-! DEFINITION. The Transport's procedures: accepting a burst (spec 41 R93, R94), finalization (41 R100), the deadline
check (41 R92). They read no Framer register (41 R112). -/

namespace Sys2Proof.Machine

/-- `AcceptBurst(p, t)` (R93); a burst beyond `MAX_BURSTS` only sets OVERCOUNT (R94). -/
def acceptBurst (p : List Byte) (t : Nat) (s : State) : State :=
  if s.hcnt = Config.maxBursts then { s with anom := { s.anom with overcount := true } }
  else
    { s with
      hist := s.hist ++ [{ bytes := p, arrival := t }]
      dl := t + s.cfg.holdOff
      flush := false
      tst := .assembling }

/-- `Finalize()` (R100): the payload is decoded once (R111), reported, and the history cleared. -/
def finalize (s : State) : State :=
  emit (.ready (Config.decode (finalPayload s.hist)))
    { s with
      decReq := some (finalPayload s.hist)
      hist := []
      dl := 0
      flush := false
      tst := .idle }

/-- The deadline check at a TICK (R92). -/
def checkDeadline (s : State) : State :=
  if deadlinePassed s then finalize s else s

end Sys2Proof.Machine
end

