-- ==== Sys2Proof/Machine/Framer.lean ====
section
/-! DEFINITION. The Framer: its procedures (spec 40 R73 to R82, 41 R91) and the meanings of NOP, CARRIER, BYTE and
FRESET (40 R71, R72, R75, R83). -/

namespace Sys2Proof.Machine

/-- `EnterSearching()` (R73). -/
def enterSearching (s : State) : State :=
  emit .searching { s with fst := .searching, win := [], pbuf := [] }

/-- `EnterNoCarrier()` (R74): the burst in progress is abandoned and the Transport is asked to finalize. -/
def enterNoCarrier (s : State) : State :=
  emit .noCarrier { s with pbuf := [], win := [], fst := .noCarrier, flush := true }

/-- `EnterReading(t)` (R78). -/
def enterReading (t : Nat) (s : State) : State :=
  emit .reading { s with fst := .reading, win := [], pbuf := [], lbt := t }

/-- `EndBurst(t)` (R82). -/
def endBurst (t : Nat) (s : State) : State :=
  enterSearching (acceptBurst s.pbuf t s)

/-- `TerminatorCheck(t)` (R81). -/
def terminatorCheck (t : Nat) (s : State) : State :=
  if tailIsTerminator s.cfg s.pbuf then endBurst t { s with pbuf := withoutTail s.cfg s.pbuf } else s

/-- BYTE while Searching: the sliding prefix window (R77). -/
def windowByte (b : Byte) (s : State) : State :=
  let s' := { s with win := shiftWindow s.cfg s.win b }
  if windowMatches s.cfg s'.win then enterReading s.now s' else s'

/-- BYTE beyond the maximum length: the burst ends and the byte is dropped (R79). -/
def truncateBurst (s : State) : State :=
  endBurst s.now { s with anom := { s.anom with truncated := true } }

/-- BYTE below the maximum length: append, then the terminator check (R80). -/
def appendByte (b : Byte) (s : State) : State :=
  terminatorCheck s.now { s with pbuf := bufAppend s.pbuf b, lbt := s.now }

/-- The effect of CARRIER (R72): the level is compared with `FST`. -/
def carrierBody (p : Bool) (s : State) : State :=
  match p, s.fst with
  | true, .noCarrier => enterSearching s
  | true, .searching => s
  | true, .reading => s
  | false, .noCarrier => s
  | false, .searching => enterNoCarrier s
  | false, .reading => enterNoCarrier s

/-- The effect of BYTE (R75): a byte without carrier is ignored (R76). -/
def byteBody (b : Byte) (s : State) : State :=
  match s.fst with
  | .noCarrier => s
  | .searching => windowByte b s
  | .reading => if s.plen = s.cfg.maxLen then truncateBurst s else appendByte b s

/-- The effect of FRESET (R83). -/
def fresetBody (s : State) : State :=
  match s.fst with
  | .noCarrier => s
  | .searching => enterNoCarrier s
  | .reading => enterNoCarrier s

/-- The inter-byte timeout at a TICK (R91). -/
def checkInterByte (s : State) : State :=
  match s.fst with
  | .noCarrier => s
  | .searching => s
  | .reading => if interByteElapsed s.cfg s.lbt s.now then endBurst s.now s else s

/-- NOP (R71). -/
def execNop (s : State) : Out := frame (fun s' => s') s

/-- CARRIER p (R72). -/
def execCarrier (p : Bool) (s : State) : Out := frame (carrierBody p) s

/-- BYTE b (R75). -/
def execByte (b : Byte) (s : State) : Out := frame (byteBody b) s

/-- FRESET (R83). -/
def execFreset (s : State) : Out := frame fresetBody s

end Sys2Proof.Machine
end

