-- ==== Sys2Proof/Machine/Tick.lean ====
section
/-! DEFINITION. TICK (spec 41 R90): the inter-byte check of the Framer, then the deadline check of the Transport. -/

namespace Sys2Proof.Machine

/-- The effect of TICK, in the order of R90. -/
def tickBody (s : State) : State := checkDeadline (checkInterByte s)

/-- TICK (R90). -/
def execTick (s : State) : Out := frame tickBody s

end Sys2Proof.Machine
end

