-- ==== Sys2Proof/Machine/Dispatch.lean ====
section
/-! DEFINITION. One arm per command (spec 40 R70). -/

namespace Sys2Proof.Machine

def exec (i : Instr) (s : State) : Host.Outcome State Fault Refusal :=
  match i with
  | .nop => Sys2Proof.Machine.execNop s
  | .carrier p => Sys2Proof.Machine.execCarrier p s
  | .byte b => Sys2Proof.Machine.execByte b s
  | .tick => Sys2Proof.Machine.execTick s
  | .freset => Sys2Proof.Machine.execFreset s

end Sys2Proof.Machine
end

