-- ==== Sys2Proof/Machine/Step.lean ====
section
/-! DEFINITION. One step of the block: one input of the host (spec 20 R47, R52, 40 R70, 70 R131). -/

namespace Sys2Proof.Machine

/-- One step: take the next input; a hardware reset resets (R131), a legal command runs, an illegal one faults (R115);
with no input, and in a faulted block with no reset supplied, there is no step (R117, R145). -/
def step (s : State) : Host.Outcome State Fault Refusal :=
  match fetch s with
  | .idle => .refused .noCommand
  | .stuck code => .fault (.stuck code)
  | .reset rest => .next (hardwareReset rest s)
  | .command c rest =>
    match decode c.word with
    | .instr i => exec i (takeCommand c rest s)
    | .illegal _ => illegalCommand (takeCommand c rest s)

/-- The host issues the instruction whose low `nbits` bits are `w` next: every command is one 16-bit word (R57) that
arrives on the command input, so that is where the block fetches (R54). Log entries 2 and 13. -/
def State.withFetchWord (s : State) (nbits w : Nat) : State :=
  supplyWord s (BitVec.ofNat 16 (w % 2 ^ nbits))

end Sys2Proof.Machine
end

