-- ==== Sys2Proof/Machine/Assembler.lean ====
section
/-! DEFINITION. The assembler notation of the spec: command lines (spec 30 R65) and pseudo-commands (30 R66). A notation
only: the block sees the expansion, the host's inputs that `assemble` gives. -/

namespace Sys2Proof.Machine

/-- A line of source. -/
inductive AsmLine where
  /-- `@<now> <MNEMONIC> [<operand>]` (R65) -/
  | command (now : Nat) (i : Instr)
  /-- `@<now> CARRIER ON` (R66) -/
  | carrierOn (now : Nat)
  /-- `@<now> CARRIER OFF` (R66) -/
  | carrierOff (now : Nat)
  /-- `BYTES`, every byte at time `t` (R66) -/
  | bytesAt (t : Nat) (bs : List Byte)
  /-- `BYTES`, the bytes at times `t`, `t+1`, ... (R66) -/
  | bytesFrom (t : Nat) (bs : List Byte)
  deriving DecidableEq, Repr

/-- One `BYTE` per byte, at times `t`, `t+1`, ... (R66). -/
def byteSequence (t : Nat) (bs : List Byte) : List (Nat × Instr) :=
  match bs with
  | [] => []
  | b :: rest => (t, .byte b) :: byteSequence (t + 1) rest

/-- The commands a line stands for (R66). -/
def AsmLine.expand (l : AsmLine) : List (Nat × Instr) :=
  match l with
  | .command now i => [(now, i)]
  | .carrierOn now => [(now, .carrier true)]
  | .carrierOff now => [(now, .carrier false)]
  | .bytesAt t bs => bs.map fun b => (t, .byte b)
  | .bytesFrom t bs => byteSequence t bs

/-- What the host supplies for a source text: each command's word with its `now` (R56, R65). -/
def assemble (ls : List AsmLine) : List HostInput :=
  ls.flatMap fun l => l.expand.map fun c => .command { word := encode c.2, now := c.1 }

/-- The value of a hexadecimal digit. -/
def hexDigit (c : Char) : Option Nat :=
  if c.isDigit then some (c.toNat - '0'.toNat)
  else if 'A'.toNat ≤ c.toNat ∧ c.toNat ≤ 'F'.toNat then some (c.toNat - 'A'.toNat + 10)
  else if 'a'.toNat ≤ c.toNat ∧ c.toNat ≤ 'f'.toNat then some (c.toNat - 'a'.toNat + 10)
  else none

/-- A byte operand: `0xHH` or a quoted ASCII character (R65). -/
def parseByte (cs : List Char) : Option Byte :=
  match cs with
  | ['0', 'x', h, l] => do
    let hi ← hexDigit h
    let lo ← hexDigit l
    pure (BitVec.ofNat 8 (16 * hi + lo))
  | ['\'', c, '\''] => if c.toNat < 128 then some (BitVec.ofNat 8 c.toNat) else none
  | _ => none

/-- The text after the time: a mnemonic and its operand (R65), or `CARRIER ON` or `CARRIER OFF` (R66). -/
def parseCommand (now : Nat) (name operand : List Char) : Option AsmLine :=
  if name = ['N', 'O', 'P'] then if operand = [] then some (.command now .nop) else none
  else if name = ['T', 'I', 'C', 'K'] then if operand = [] then some (.command now .tick) else none
  else if name = ['F', 'R', 'E', 'S', 'E', 'T'] then
    if operand = [] then some (.command now .freset) else none
  else if name = ['C', 'A', 'R', 'R', 'I', 'E', 'R'] then
    if operand = ['0'] then some (.command now (.carrier false))
    else if operand = ['1'] then some (.command now (.carrier true))
    else if operand = ['O', 'N'] then some (.carrierOn now)
    else if operand = ['O', 'F', 'F'] then some (.carrierOff now)
    else none
  else if name = ['B', 'Y', 'T', 'E'] then (parseByte operand).map fun b => .command now (.byte b)
  else none

/-- The value of a decimal digit string. -/
def decimal (ds : List Char) : Nat := ds.foldl (fun n c => 10 * n + (c.toNat - '0'.toNat)) 0

/-- One line of text, `@<now> <MNEMONIC> [<operand>]` (R65), its parts separated by one space. Log entry 14. -/
def parseLine (cs : List Char) : Option AsmLine :=
  match cs with
  | '@' :: rest =>
    let ds := rest.takeWhile Char.isDigit
    match rest.dropWhile Char.isDigit with
    | ' ' :: text =>
      if ds = [] then none
      else parseCommand (decimal ds) (text.takeWhile fun c => c ≠ ' ') ((text.dropWhile fun c => c ≠ ' ').drop 1)
    | _ => none
  | _ => none

end Sys2Proof.Machine
end

