-- ==== Sys2Proof/Safety.lean ====
section
/-! DEFINITION. The terms of the claims: when a command is accepted (spec 40 R70), the invariant of the block (10 R32),
the host's duty on commands and time (70 R137), a run and its observation (70 R144). -/

namespace Sys2Proof.Machine

/-- R70's checks pass: the block has no fault, time does not go back and is in range (R114). -/
abbrev Accepts (s : State) : Prop :=
  s.fault = .none ∧ s.tlast ≤ s.now ∧ s.now ≤ 2 ^ s.cfg.timeW - 1 - s.cfg.holdOff

/-- A burst in progress has waited longer than the inter-byte timeout (R91). -/
abbrev TimedOut (s : State) : Prop :=
  s.fst = .reading ∧ ∃ d ∈ s.cfg.ibt, d < s.now - s.lbt

/-- The cycle is due at a TICK (R92). -/
abbrev Due (s : State) : Prop :=
  0 < s.hist.length ∧ (s.flush = true ∨ s.dl < s.now)

/-- The invariant of the block: R32 (a) to (f), with the facts on times and counts that R28, R91, R105 and R106
state, for a legal configuration (R13). R32 (g), which speaks of the past, is a statement about steps. -/
structure Inv (s : State) : Prop where
  /-- the configuration is legal (R13, R135) -/
  legal : s.cfg.legal = true
  /-- R32 (a) -/
  idle_iff : s.tst = .idle ↔ s.hist = []
  /-- R32 (b) -/
  no_payload : s.fst ≠ .reading → s.pbuf = []
  /-- R32 (c) -/
  payload_fits : s.pbuf.length ≤ s.cfg.maxLen
  /-- R32 (c) -/
  bursts_fit : ∀ b ∈ s.hist, b.bytes.length ≤ s.cfg.maxLen
  /-- R32 (d) -/
  window_fits : s.win.length ≤ s.cfg.prefixBytes.length
  /-- R32 (d) -/
  window_differs : s.win ≠ s.cfg.prefixBytes
  /-- R32 (d) -/
  no_window : s.fst ≠ .searching → s.win = []
  /-- R32 (e) -/
  arrivals_rise : s.hist.Pairwise fun a b => a.arrival ≤ b.arrival
  /-- R32 (e) -/
  arrivals_past : ∀ b ∈ s.hist, b.arrival ≤ s.tlast
  /-- R32 (f) -/
  deadline : ∀ b ∈ s.hist.getLast?, s.dl = b.arrival + s.cfg.holdOff
  /-- R28: no deadline is pending without a burst -/
  no_deadline : s.hist = [] → s.dl = 0
  /-- R106 -/
  count : s.hist.length ≤ Config.maxBursts
  /-- R91: `LBT ≤ TLAST` -/
  last_byte_past : s.lbt ≤ s.tlast
  /-- R105: `TLAST ≤ TIME_LIMIT` -/
  time_in_range : s.tlast ≤ 2 ^ s.cfg.timeW - 1 - s.cfg.holdOff

/-- The legal command words, complete (R62). -/
def legalWord (w : CmdWord) : Bool :=
  decide (w = 0x0000) || decide (w = 0x0100) || decide (w = 0x0101)
    || (decide (0x0200 ≤ w) && decide (w ≤ 0x02FF)) || decide (w = 0x0300) || decide (w = 0x0400)

/-- The host keeps its duties on what it supplies: legal words, and times that neither go back nor leave the range
(R137); a hardware reset lets time start again (R132). `last` is the `now` of the command before. -/
def Dutiful (c : Config) (last : Nat) : List HostInput → Bool
  | [] => true
  | .reset :: rest => Dutiful c 0 rest
  | .command k :: rest =>
    legalWord k.word && decide (last ≤ k.now) && decide (k.now ≤ 2 ^ c.timeW - 1 - c.holdOff)
      && Dutiful c k.now rest

/-- The commands BYTE b, each at its own time, one after the other; none where the block makes no step. -/
def feed : List (Byte × Nat) → State → Option State
  | [], s => some s
  | (b, t) :: rest, s =>
    match exec (.byte b) { s with now := t } with
    | .next s' => feed rest s'
    | .fault _ => none
    | .refused _ => none

/-- Times that do not go back from `last` and stay in range (R137). -/
def timesOk (c : Config) (last : Nat) : List Nat → Bool
  | [] => true
  | t :: rest =>
    decide (last ≤ t) && decide (t ≤ 2 ^ c.timeW - 1 - c.holdOff) && timesOk c t rest

/-- The event sequence of a run of at most `k` steps: the concatenation of every step's `EVOUT` (R33, R144). -/
def runEvents : Nat → State → List Event
  | 0, _ => []
  | k + 1, s =>
    match step s with
    | .next t => t.evout ++ runEvents k t
    | .fault _ => []
    | .refused _ => []

/-- The `ANOM` outputs of a run of at most `k` steps, step by step (R144). -/
def runAnoms : Nat → State → List Anom
  | 0, _ => []
  | k + 1, s =>
    match step s with
    | .next t => t.anom :: runAnoms k t
    | .fault _ => []
    | .refused _ => []

/-- The state in which a run of at most `k` steps ends. -/
def runEnd : Nat → State → State
  | 0, s => s
  | k + 1, s =>
    match step s with
    | .next t => runEnd k t
    | .fault _ => s
    | .refused _ => s

/-- The observation of a run: the event sequence, the `ANOM` outputs and the final `STATUS` (R144). -/
def observe (k : Nat) (s : State) : List Event × List Anom × BitVec 16 :=
  (runEvents k s, runAnoms k s, (runEnd k s).status)

/-- A run has ended cleanly when its last command completed without a fault (R144). R144 leaves open a run with no command,
and one whose last input is a hardware reset after a faulting command: read from the FAULT of the end state, both have
ended cleanly here. DESIGN CHOICE, log entry 17, unsafe. -/
def endedCleanly (k : Nat) (s : State) : Bool := decide ((runEnd k s).fault = .none)

end Sys2Proof.Machine
end

