-- ==== Sys2Proof/Certificates/Slice0/Obligations.lean ====
section
/-! DEFINITION. The statements for the provers. Each docstring names the rule of spec/ it formalises; expected next states
are written out field by field, so that every field not named is unchanged. -/

open Sys2Proof Sys2Proof.Machine

/-! ### Encoding (spec 30) -/

/-- R57 to R59: the decoder reads back every command that the encoder writes. -/
def Obligations.DecodeOfEncodeIsTheCommand : Prop :=
  ∀ i : Instr, i.wf = true → decode (encode i) = .instr i

/-- R60 "No bit is ignored", R67: a legal word is the encoding of the command it decodes to. -/
def Obligations.EncodeOfDecodedIsTheWord : Prop :=
  ∀ (w : CmdWord) (i : Instr), decode w = .instr i → encode i = w

/-- R62: the legal words, complete, each with its command; every other word is illegal. -/
def Obligations.LegalCommandWordsAreComplete : Prop :=
  decode 0x0000 = .instr .nop
    ∧ decode 0x0100 = .instr (.carrier false)
    ∧ decode 0x0101 = .instr (.carrier true)
    ∧ (∀ b : Byte, decode ((0x02 : BitVec 8) ++ b) = .instr (.byte b))
    ∧ decode 0x0300 = .instr .tick
    ∧ decode 0x0400 = .instr .freset
    ∧ ∀ w : CmdWord, w ≠ 0x0000 → w ≠ 0x0100 → w ≠ 0x0101 → ¬ (0x0200 ≤ w ∧ w ≤ 0x02FF) → w ≠ 0x0300 →
        w ≠ 0x0400 → ∃ why, decode w = .illegal why

/-- R62, R65: words written out from the encoding tables decode to the commands they stand for. -/
def Obligations.SampleWordsDecode : Prop :=
  decode 0b0000000000000000 = .instr .nop
    ∧ decode 0b0000000100000001 = .instr (.carrier true)
    ∧ decode 0b0000001001000001 = .instr (.byte 0x41)
    ∧ decode 0b0000001100000000 = .instr .tick
    ∧ decode 0b0000010000000000 = .instr .freset

/-- R60, R61, R115: a set must-be-zero bit or a reserved opcode takes the fault ILLEGAL_COMMAND and has no other effect,
whatever the times are (so before the time checks, R116 a). `now` and `input` are the model's input fields. -/
def Obligations.IllegalWordTakesTheFault : Prop :=
  ∀ (s : State) (w : CmdWord) (n : Nat) (rest : List HostInput),
    s.fault = .none → s.input = .command { word := w, now := n } :: rest →
    (w.extractLsb' 11 5 ≠ 0
      ∨ 0b100 < w.extractLsb' 8 3
      ∨ ((w.extractLsb' 8 3 = 0b000 ∨ w.extractLsb' 8 3 = 0b011 ∨ w.extractLsb' 8 3 = 0b100)
          ∧ w.extractLsb' 0 8 ≠ 0)
      ∨ (w.extractLsb' 8 3 = 0b001 ∧ w.extractLsb' 1 7 ≠ 0)) →
    step s = .next
      { s with
        fault := .illegalCommand
        evout := []
        anom := { truncated := false, overcount := false }
        decReq := none
        now := n
        input := rest }

/-- R66: the pseudo-commands are exactly the commands they stand for, at the stated times: `CARRIER ON` and `CARRIER OFF`
one CARRIER, `BYTES` one BYTE for each byte, in order, and no further command. -/
def Obligations.PseudoCommandsAreTheirExpansion : Prop :=
  (∀ n, assemble [.carrierOn n] = assemble [.command n (.carrier true)])
    ∧ (∀ n, assemble [.carrierOff n] = assemble [.command n (.carrier false)])
    ∧ (∀ (n k : Nat) (bs : List Byte) (b : Byte), bs[k]? = some b →
        (assemble [.bytesAt n bs])[k]? = some (.command { word := (0x02 : BitVec 8) ++ b, now := n })
          ∧ (assemble [.bytesFrom n bs])[k]? = some (.command { word := (0x02 : BitVec 8) ++ b, now := n + k }))
    ∧ ∀ (n : Nat) (bs : List Byte),
        (assemble [.bytesAt n bs]).length = bs.length ∧ (assemble [.bytesFrom n bs]).length = bs.length

/-! ### The step frame, faults and reset (spec 40 R70, 60, 70) -/

/-- R70, R47: when the next input is a legal command, a step samples its time and is the meaning of the command. That
`now` and the inputs stand in State is the model's form (log entries 1 and 2). -/
def Obligations.StepRunsTheDecodedCommand : Prop :=
  ∀ (s : State) (w : CmdWord) (n : Nat) (rest : List HostInput) (i : Instr),
    s.fault = .none → s.input = .command { word := w, now := n } :: rest → decode w = .instr i →
    step s = exec i { s with now := n, input := rest }

/-- R114: the two time checks come before every effect, in this order, and change nothing but FAULT; a command that
passes them completes at its `now`, its burst (if it ends one) arrives at `now`, and the deadline stays representable. -/
def Obligations.TimeChecksComeBeforeEveryEffect : Prop :=
  ∀ (i : Instr) (s : State), s.fault = .none →
    (s.now < s.tlast →
      exec i s = .next
        { s with
          fault := .timeRegression
          evout := []
          anom := { truncated := false, overcount := false }
          decReq := none })
    ∧ (s.tlast ≤ s.now → 2 ^ s.cfg.timeW - 1 - s.cfg.holdOff < s.now →
      exec i s = .next
        { s with
          fault := .timeRange
          evout := []
          anom := { truncated := false, overcount := false }
          decReq := none })
    ∧ (s.tlast ≤ s.now → s.now ≤ 2 ^ s.cfg.timeW - 1 - s.cfg.holdOff →
      ∃ t, exec i s = .next t ∧ t.fault = .none ∧ t.tlast = s.now
        ∧ (∀ b ∈ t.hist, b ∈ s.hist ∨ b.arrival = s.now)
        ∧ (s.cfg.legal = true → t.dl = s.dl ∨ t.dl < 2 ^ s.cfg.timeW))

/-- R117, R118: while FAULT is set no command has a step, and without a hardware reset the block is stuck. That this
is the outcome `Fault.stuck` is the model's form (log entry 9). -/
def Obligations.FaultedBlockHasNoStep : Prop :=
  ∀ s : State, s.fault ≠ .none →
    (∀ i, exec i s = .fault (.stuck s.fault))
    ∧ (.reset ∉ s.input → step s = .fault (.stuck s.fault))

/-- R118: a step of a faulted block is a hardware reset, and nothing else. That commands before the reset are passed
over is the model's form of "takes no further command" (log entry 9), and that the inputs after the reset stay is its
choice (log entry 10). -/
def Obligations.OnlyHardwareResetLeavesAFault : Prop :=
  ∀ s t : State, s.fault ≠ .none → step s = .next t →
    ∃ before rest, s.input = before ++ .reset :: rest ∧ .reset ∉ before
      ∧ t = { State.resetWith s.cfg with input := rest }

/-- R131: the reset input, in any state including a faulted one, sets every register to its reset value in one step,
with no event and no anomaly; and it is the only way to clear FAULT. The parameters stay (R14). -/
def Obligations.HardwareResetSetsEveryRegister : Prop :=
  (∀ (s : State) (rest : List HostInput), s.input = .reset :: rest →
    ∃ t, step s = .next t
      ∧ t.fst = .noCarrier ∧ t.win = [] ∧ t.pbuf = [] ∧ t.lbt = 0
      ∧ t.tst = .idle ∧ t.hist = [] ∧ t.dl = 0 ∧ t.flush = false
      ∧ t.tlast = 0 ∧ t.fault = .none
      ∧ t.evout = [] ∧ t.anom = { truncated := false, overcount := false } ∧ t.cfg = s.cfg)
  ∧ ∀ s t : State, s.fault ≠ .none → step s = .next t → t.fault = .none ∧ .reset ∈ s.input

/-- R133: the reset values, complete. -/
def Obligations.ResetValuesOfEveryRegister : Prop :=
  State.reset.fst = .noCarrier ∧ State.reset.win = [] ∧ State.reset.wcnt = 0
    ∧ State.reset.plen = 0 ∧ State.reset.lbt = 0 ∧ State.reset.tst = .idle ∧ State.reset.hcnt = 0
    ∧ (∀ k, State.reset.hlen k = 0 ∧ State.reset.harr k = 0)
    ∧ State.reset.dl = 0 ∧ State.reset.flush = false ∧ State.reset.tlast = 0 ∧ State.reset.fault = .none
    ∧ State.reset.status = 0x0000 ∧ State.reset.isActive = false

/-- R132: after reset the block waits for the first command, and a first command at any time up to TIME_LIMIT is
accepted. That waiting is the refusal `noCommand` is the model's form (log entry 2). -/
def Obligations.FirstCommandAfterResetIsAccepted : Prop :=
  step State.reset = .refused .noCommand
    ∧ ∀ (i : Instr) (n : Nat), n ≤ 2 ^ State.reset.cfg.timeW - 1 - State.reset.cfg.holdOff →
        ∃ t, step { State.reset with input := [.command { word := encode i, now := n }] } = .next t
          ∧ t.fault = .none ∧ t.tlast = n

/-! ### NOP, CARRIER, FRESET (spec 40) -/

/-- R71: NOP changes TLAST only; neither timer is checked. -/
def Obligations.NopOnlyAdvancesTime : Prop :=
  decode 0x0000 = .instr .nop
    ∧ ∀ s : State, Accepts s →
        exec .nop s = .next
          { s with
            tlast := s.now
            evout := []
            anom := { truncated := false, overcount := false }
            decReq := none }

/-- R72: CARRIER compares the level with FST: it enters Searching from NoCarrier, enters NoCarrier from an active
state (abandoning the burst in progress and setting FLUSH), and has no effect otherwise. -/
def Obligations.CarrierFollowsTheLevel : Prop :=
  decode 0x0100 = .instr (.carrier false) ∧ decode 0x0101 = .instr (.carrier true)
    ∧ ∀ (p : Bool) (s : State), Accepts s →
        (p = true → s.fst = .noCarrier →
          exec (.carrier p) s = .next
            { s with
              fst := .searching
              win := []
              pbuf := []
              tlast := s.now
              evout := [.searching]
              anom := { truncated := false, overcount := false }
              decReq := none })
        ∧ (p = false → s.fst ≠ .noCarrier →
          exec (.carrier p) s = .next
            { s with
              fst := .noCarrier
              win := []
              pbuf := []
              flush := true
              tlast := s.now
              evout := [.noCarrier]
              anom := { truncated := false, overcount := false }
              decReq := none })
        ∧ ((p = true ↔ s.fst ≠ .noCarrier) →
          exec (.carrier p) s = .next
            { s with
              tlast := s.now
              evout := []
              anom := { truncated := false, overcount := false }
              decReq := none })

/-- R83: FRESET is the carrier-loss transition when the Framer is active and nothing otherwise; the history and the
deadline stay, and a later TICK finalizes the bursts already accepted at once. -/
def Obligations.FresetIsTheCarrierLossTransition : Prop :=
  decode 0x0400 = .instr .freset
    ∧ ∀ s : State, Accepts s →
        (s.fst = .noCarrier →
          exec .freset s = .next
            { s with
              tlast := s.now
              evout := []
              anom := { truncated := false, overcount := false }
              decReq := none })
        ∧ (s.fst ≠ .noCarrier →
          ∃ t, exec .freset s = .next t
            ∧ t = { s with
                    fst := .noCarrier
                    win := []
                    pbuf := []
                    flush := true
                    tlast := s.now
                    evout := [.noCarrier]
                    anom := { truncated := false, overcount := false }
                    decReq := none }
            ∧ ∀ n, s.hist ≠ [] → s.now ≤ n → n ≤ 2 ^ s.cfg.timeW - 1 - s.cfg.holdOff →
                ∃ u, exec .tick { t with now := n } = .next u
                  ∧ u.evout = [.ready (Config.decode (finalPayload s.hist))] ∧ u.hist = [])

/-- R89: at every state `is_active` is the Framer being Searching or Reading, and a CARRIER 0 that does not fault
leaves NoCarrier with an empty payload buffer and hands no burst to the Transport. The premise on the payload is
R32 (b), part of the invariant. -/
def Obligations.CarrierLossAlwaysReachesNoCarrier : Prop :=
  (∀ s : State, s.isActive = true ↔ s.fst = .searching ∨ s.fst = .reading)
    ∧ ∀ s : State, Accepts s → (s.fst ≠ .reading → s.pbuf = []) →
        ∃ t, exec (.carrier false) s = .next t ∧ t.fst = .noCarrier ∧ t.plen = 0 ∧ t.hist = s.hist

/-! ### BYTE (spec 40) -/

/-- R76: a byte without carrier is ignored. -/
def Obligations.ByteIgnoredWithoutCarrier : Prop :=
  ∀ (b : Byte) (s : State), Accepts s → s.fst = .noCarrier →
    exec (.byte b) s = .next
      { s with
        tlast := s.now
        evout := []
        anom := { truncated := false, overcount := false }
        decReq := none }

/-- R77, R78: in Searching the window takes the byte, a full window dropping its oldest; a window equal to PREFIX
enters Reading. -/
def Obligations.ByteInSearchingSlidesTheWindow : Prop :=
  ∀ (b : Byte) (s : State) (w : List Byte), Accepts s → s.fst = .searching →
    w = (if s.win.length = s.cfg.prefixBytes.length then s.win.tail else s.win) ++ [b] →
    (w = s.cfg.prefixBytes →
      exec (.byte b) s = .next
        { s with
          fst := .reading
          win := []
          pbuf := []
          lbt := s.now
          tlast := s.now
          evout := [.reading]
          anom := { truncated := false, overcount := false }
          decReq := none })
    ∧ (w ≠ s.cfg.prefixBytes →
      exec (.byte b) s = .next
        { s with
          win := w
          tlast := s.now
          evout := []
          anom := { truncated := false, overcount := false }
          decReq := none })

/-- R77: the prefix is found wherever it starts in the byte stream since the entry into Searching, also after a
partial false start, at the byte that completes it; until then the window holds the last bytes of the stream, and no
byte of it becomes payload. -/
def Obligations.PrefixIsFoundWhereverItStarts : Prop :=
  ∀ (s : State) (l : List (Byte × Nat)),
    s.cfg.legal = true → s.fault = .none → s.fst = .searching → s.win = [] → s.pbuf = [] →
    timesOk s.cfg s.tlast (l.map Prod.snd) = true →
    (∀ m < l.length, ¬ s.cfg.prefixBytes <:+ (l.map Prod.fst).take m) →
    ∃ t, feed l s = some t ∧ t.hist = s.hist ∧ t.pbuf = []
      ∧ (s.cfg.prefixBytes <:+ l.map Prod.fst →
          t.fst = .reading ∧ t.win = [] ∧ t.evout = [.reading] ∧ ∀ x ∈ l.getLast?, t.lbt = x.2)
      ∧ (¬ s.cfg.prefixBytes <:+ l.map Prod.fst →
          t.fst = .searching ∧ t.win = (l.map Prod.fst).drop (l.length - s.cfg.prefixBytes.length))

/-- R79, R94: the byte after a full payload ends the burst, which is forwarded with TRUNCATED (and ignored with
OVERCOUNT when three bursts are held); the byte is dropped. -/
def Obligations.ByteBeyondMaxLenTruncates : Prop :=
  ∀ (b : Byte) (s : State), Accepts s → s.fst = .reading → s.pbuf.length = s.cfg.maxLen →
    (s.hist.length ≠ 3 →
      exec (.byte b) s = .next
        { s with
          fst := .searching
          win := []
          pbuf := []
          hist := s.hist ++ [{ bytes := s.pbuf, arrival := s.now }]
          dl := s.now + s.cfg.holdOff
          flush := false
          tst := .assembling
          tlast := s.now
          evout := [.searching]
          anom := { truncated := true, overcount := false }
          decReq := none })
    ∧ (s.hist.length = 3 →
      exec (.byte b) s = .next
        { s with
          fst := .searching
          win := []
          pbuf := []
          tlast := s.now
          evout := [.searching]
          anom := { truncated := true, overcount := true }
          decReq := none })

/-- R80: a byte below the maximum length is appended and stamps LBT; with no terminator at the tail nothing else
happens, also when the byte fills the buffer. -/
def Obligations.ByteBelowMaxLenIsAppended : Prop :=
  ∀ (b : Byte) (s : State), Accepts s → s.fst = .reading → s.pbuf.length < s.cfg.maxLen →
    ¬ (s.cfg.termBytes ≠ [] ∧ s.cfg.termBytes <:+ s.pbuf ++ [b]) →
    exec (.byte b) s = .next
      { s with
        pbuf := s.pbuf ++ [b]
        lbt := s.now
        tlast := s.now
        evout := []
        anom := { truncated := false, overcount := false }
        decReq := none }

/-- R81, R82, R93, R94: a byte that completes the terminator ends the burst; the payload without the terminator is
accepted, or ignored with OVERCOUNT when three bursts are held. -/
def Obligations.TerminatorEndsTheBurst : Prop :=
  ∀ (b : Byte) (s : State) (p : List Byte), Accepts s → s.fst = .reading → s.pbuf.length < s.cfg.maxLen →
    s.cfg.termBytes ≠ [] → s.pbuf ++ [b] = p ++ s.cfg.termBytes →
    (s.hist.length ≠ 3 →
      exec (.byte b) s = .next
        { s with
          fst := .searching
          win := []
          pbuf := []
          lbt := s.now
          hist := s.hist ++ [{ bytes := p, arrival := s.now }]
          dl := s.now + s.cfg.holdOff
          flush := false
          tst := .assembling
          tlast := s.now
          evout := [.searching]
          anom := { truncated := false, overcount := false }
          decReq := none })
    ∧ (s.hist.length = 3 →
      exec (.byte b) s = .next
        { s with
          fst := .searching
          win := []
          pbuf := []
          lbt := s.now
          tlast := s.now
          evout := [.searching]
          anom := { truncated := false, overcount := true }
          decReq := none })

/-- R86: the payload of a burst that its terminator ends is exactly the bytes received since the prefix, in order, minus
the terminator. A burst ended by its length is `ByteBeyondMaxLenTruncates`, by a timeout `TickTimesOutTheBurst`. -/
def Obligations.PayloadIsTheBytesReceived : Prop :=
  ∀ (s : State) (front : List (Byte × Nat)) (b : Byte) (n : Nat) (p : List Byte),
    s.fault = .none → s.fst = .reading → s.pbuf = [] → s.hist.length < 3 →
    timesOk s.cfg s.tlast ((front ++ [(b, n)]).map Prod.snd) = true →
    s.cfg.termBytes ≠ [] → (front ++ [(b, n)]).map Prod.fst = p ++ s.cfg.termBytes →
    (front ++ [(b, n)]).length ≤ s.cfg.maxLen →
    (∀ m ≤ front.length, ¬ s.cfg.termBytes <:+ (front.map Prod.fst).take m) →
    ∃ t, feed (front ++ [(b, n)]) s = some t
      ∧ t.hist = s.hist ++ [{ bytes := p, arrival := n }] ∧ t.dl = n + s.cfg.holdOff
      ∧ t.fst = .searching ∧ t.pbuf = [] ∧ t.evout = [.searching]
      ∧ t.anom = { truncated := false, overcount := false }

/-! ### Bursts and TICK (spec 41) -/

/-- R93: when a burst ends with room in the history, it takes the next slot with the time of the step, restarts the
deadline, clears FLUSH and makes the Transport Assembling; the step finalizes nothing. -/
def Obligations.AcceptedBurstTakesTheNextSlot : Prop :=
  ∀ (i : Instr) (s t : State), exec i s = .next t → s.fst = .reading → t.fst = .searching → s.hist.length < 3 →
    ∃ p, t.hist = s.hist ++ [{ bytes := p, arrival := s.now }]
      ∧ (p = s.pbuf ∨ ∃ b, i = .byte b ∧ s.pbuf ++ [b] = p ++ s.cfg.termBytes)
      ∧ t.dl = s.now + s.cfg.holdOff ∧ t.flush = false ∧ t.tst = .assembling
      ∧ t.evout = [.searching] ∧ t.anom.overcount = false

/-- R94: a burst that ends while three are held is ignored: OVERCOUNT is set and no history register, DL, FLUSH or TST
changes, unless the same TICK then finalizes the cycle by the earlier deadline (R90); the Searching event still
happens. -/
def Obligations.OverCountBurstIsIgnored : Prop :=
  ∀ (i : Instr) (s t : State), exec i s = .next t → s.fst = .reading → t.fst = .searching → s.hist.length = 3 →
    t.anom.overcount = true ∧ .searching ∈ t.evout
      ∧ ((t.hist = s.hist ∧ t.dl = s.dl ∧ t.flush = s.flush ∧ t.tst = s.tst ∧ t.evout = [.searching])
        ∨ (i = .tick ∧ Due s ∧ t.evout = [.searching, .ready (Config.decode (finalPayload s.hist))]))

/-- R92, R100: at a TICK with no inter-byte timeout, the cycle is finalized exactly when a burst is held and FLUSH is
set or the deadline lies strictly before `now`; otherwise nothing but TLAST changes. -/
def Obligations.TickChecksTheDeadline : Prop :=
  decode 0x0300 = .instr .tick
    ∧ ∀ s : State, Accepts s → ¬ TimedOut s →
        (¬ Due s →
          exec .tick s = .next
            { s with
              tlast := s.now
              evout := []
              anom := { truncated := false, overcount := false }
              decReq := none })
        ∧ (Due s →
          exec .tick s = .next
            { s with
              tst := .idle
              hist := []
              dl := 0
              flush := false
              tlast := s.now
              evout := [.ready (Config.decode (finalPayload s.hist))]
              anom := { truncated := false, overcount := false }
              decReq := some (finalPayload s.hist) })

/-- R91, R90: at a TICK an inter-byte timeout ends the burst in progress first. An accepted burst restarts the deadline,
so the same TICK does not finalize; an over-count burst leaves the earlier deadline and FLUSH to apply. -/
def Obligations.TickTimesOutTheBurst : Prop :=
  ∀ s : State, Accepts s → TimedOut s →
    (s.hist.length ≠ 3 →
      exec .tick s = .next
        { s with
          fst := .searching
          win := []
          pbuf := []
          hist := s.hist ++ [{ bytes := s.pbuf, arrival := s.now }]
          dl := s.now + s.cfg.holdOff
          flush := false
          tst := .assembling
          tlast := s.now
          evout := [.searching]
          anom := { truncated := false, overcount := false }
          decReq := none })
    ∧ (s.hist.length = 3 → ¬ Due s →
      exec .tick s = .next
        { s with
          fst := .searching
          win := []
          pbuf := []
          tlast := s.now
          evout := [.searching]
          anom := { truncated := false, overcount := true }
          decReq := none })
    ∧ (s.hist.length = 3 → Due s →
      exec .tick s = .next
        { s with
          fst := .searching
          win := []
          pbuf := []
          tst := .idle
          hist := []
          dl := 0
          flush := false
          tlast := s.now
          evout := [.searching, .ready (Config.decode (finalPayload s.hist))]
          anom := { truncated := false, overcount := true }
          decReq := some (finalPayload s.hist) })

/-- R102: from Idle no TICK finalizes: with no burst held and none that times out in this step, no event is emitted, no
state changes but TLAST, and the Transport is Idle as before. -/
def Obligations.TickFromIdleDoesNothing : Prop :=
  ∀ s : State, Accepts s → s.hist = [] → ¬ TimedOut s →
    exec .tick s = .next
      { s with
        tlast := s.now
        evout := []
        anom := { truncated := false, overcount := false }
        decReq := none }

/-- R108 (a), R95: a single burst is reported exactly once, decoded directly, at the first TICK after its deadline, and
the Transport returns to Idle; a TICK up to the deadline reports nothing. -/
def Obligations.SingleBurstIsReportedAfterItsDeadline : Prop :=
  ∀ (s : State) (b : Slot), Accepts s → ¬ TimedOut s → s.hist = [b] → s.flush = false →
    (s.now ≤ s.dl → ∃ t, exec .tick s = .next t ∧ t.evout = [] ∧ t.hist = [b] ∧ t.dl = s.dl)
    ∧ (s.dl < s.now → ∃ t, exec .tick s = .next t
        ∧ t.evout = [.ready (Config.decode b.bytes)] ∧ t.tst = .idle ∧ t.hist = [])

/-- R103, R100: a reported cycle is never reported again. After a step that reports a cycle, a next TICK at any time
reports nothing; and in every later run, whatever the host supplies, no step reports anything as long as no burst is
accepted (the history is empty at the start of each step). -/
def Obligations.FinalizedCycleIsReportedOnce : Prop :=
  ∀ (i : Instr) (s t : State) (r : DecodeResult), exec i s = .next t → .ready r ∈ t.evout →
    (∀ (u : State) (n : Nat), exec .tick { t with now := n } = .next u → ∀ r', .ready r' ∉ u.evout)
    ∧ ∀ (k : Nat) (later : List HostInput), (∀ j < k, (runEnd j { t with input := later }).hist = []) →
        ∀ r', .ready r' ∉ runEvents k { t with input := later }

/-- R141: a burst end and a TICK at the same `now` do not finalize the new burst, and with HOLD_OFF = 0 the first TICK
with a strictly later `now` finalizes it. -/
def Obligations.SameTimeTickDoesNotFinalizeTheNewBurst : Prop :=
  ∀ (b : Byte) (s t : State), exec (.byte b) s = .next t → t.hist ≠ s.hist →
    (∃ u, exec .tick t = .next u ∧ u.hist = t.hist ∧ u.evout = [])
    ∧ ∀ n, s.cfg.holdOff = 0 → s.now < n → n ≤ 2 ^ s.cfg.timeW - 1 - s.cfg.holdOff →
        ∃ u, exec .tick { t with now := n } = .next u
          ∧ u.evout = [.ready (Config.decode (finalPayload t.hist))] ∧ u.hist = []

/-! ### The vote (spec 41) -/

/-- R96: the consensus is as long as the longest burst, and every position below that length is voted. -/
def Obligations.ConsensusLengthIsTheLongestBurst : Prop :=
  ∀ h : List Slot, h ≠ [] →
    (∀ b ∈ h, b.bytes.length ≤ (consensus h).length) ∧ ∃ b ∈ h, b.bytes.length = (consensus h).length

/-- R97, R98: each bit of the consensus is the majority over the bursts that cover its position, which are some, and on
a tie the bit of the earliest of them. -/
def Obligations.EveryBitIsTheMajorityOfItsContributors : Prop :=
  ∀ (h : List Slot) (i j : Nat) (cs : List Byte) (ones zeros : Nat) (v : Byte), j < 8 →
    (consensus h)[i]? = some v →
    cs = (h.filter fun b => i < b.bytes.length).map (fun b => b.bytes.getD i 0) →
    ones = (cs.filter fun c => c.getLsbD j = true).length →
    zeros = (cs.filter fun c => c.getLsbD j = false).length →
    cs ≠ []
      ∧ (zeros < ones → v.getLsbD j = true)
      ∧ (ones < zeros → v.getLsbD j = false)
      ∧ (ones = zeros → ∀ c ∈ cs.head?, v.getLsbD j = c.getLsbD j)

/-- R101: the byte-wide form of the vote, by the number of contributors; and a two-burst cycle returns the first burst
wherever it covers, extended by the second burst's bytes beyond it. -/
def Obligations.ByteWideVoteIsTheMajorityTree : Prop :=
  (∀ a b c : Byte, votedByte [a, b, c] = (a &&& b) ||| (a &&& c) ||| (b &&& c))
    ∧ (∀ a b : Byte, votedByte [a, b] = a)
    ∧ (∀ a : Byte, votedByte [a] = a)
    ∧ ∀ x y : Slot, consensus [x, y] = x.bytes ++ y.bytes.drop x.bytes.length

/-- R101: for at most three bursts the byte-wide vote gives the consensus that the bit-wise vote of R98 gives. -/
def Obligations.ByteWideConsensusEqualsTheBitVote : Prop :=
  ∀ h : List Slot, h.length ≤ 3 →
    consensus h = (List.range (consensusLength h)).map fun i => votedByteWide (contributors h i)

/-- R95: a single burst is decoded directly, and the vote of one burst is that burst; for every number of bursts the
payload is the consensus. -/
def Obligations.PayloadOfOneBurstIsThatBurst : Prop :=
  (∀ b : Slot, finalPayload [b] = b.bytes ∧ consensus [b] = b.bytes)
    ∧ ∀ h : List Slot, h ≠ [] → finalPayload h = consensus h

/-- R108 (b), (d): of three bursts that cover a position, two that agree at a bit decide it, whichever two they are; and
three identical bursts give the payload of any one of them. -/
def Obligations.TwoAgreeingBurstsDecide : Prop :=
  (∀ (x y z : Slot) (i j : Nat) (a b c v : Byte), j < 8 →
    x.bytes[i]? = some a → y.bytes[i]? = some b → z.bytes[i]? = some c →
    (finalPayload [x, y, z])[i]? = some v →
    (a.getLsbD j = b.getLsbD j → v.getLsbD j = a.getLsbD j)
      ∧ (a.getLsbD j = c.getLsbD j → v.getLsbD j = a.getLsbD j)
      ∧ (b.getLsbD j = c.getLsbD j → v.getLsbD j = b.getLsbD j))
  ∧ ∀ x y z : Slot, x.bytes = y.bytes → y.bytes = z.bytes → finalPayload [x, y, z] = x.bytes

/-- R104: if every burst of the cycle is empty, the empty sequence is decoded and reported. -/
def Obligations.EmptyBurstsAreStillReported : Prop :=
  ∀ s : State, Accepts s → ¬ TimedOut s → Due s → (∀ b ∈ s.hist, b.bytes = []) →
    ∃ t, exec .tick s = .next t ∧ t.evout = [.ready (Config.decode [])] ∧ t.decReq = some []

/-! ### Whole-machine rules -/

/-- R84: a step emits exactly one Framer event per change of FST, naming the new state, and none when FST does not
change. -/
def Obligations.FramerEventsNameTheStateChange : Prop :=
  ∀ (i : Instr) (s t : State), exec i s = .next t →
    t.evout.filter (fun e => e.kind ≠ 0b11) = if t.fst = s.fst then [] else [t.fst.event]

/-- R116 (c), R63: a step's events are at most two, and two only as Searching then Ready at a TICK; no other command
emits Ready. -/
def Obligations.EventsOfAStepAreInOrder : Prop :=
  ∀ (i : Instr) (s t : State), exec i s = .next t →
    (t.evout = [] ∨ t.evout = [.noCarrier] ∨ t.evout = [.searching] ∨ t.evout = [.reading]
      ∨ (∃ r, t.evout = [.ready r]) ∨ ∃ r, t.evout = [.searching, .ready r])
    ∧ (i ≠ .tick → ∀ r, .ready r ∉ t.evout)

/-- R111: the decoder is called exactly once per finalization, with the payload of the history, its result carried
unchanged into the one Ready event; in every other step it is not called and nothing is reported. -/
def Obligations.DecoderIsCalledOncePerFinalization : Prop :=
  ∀ (i : Instr) (s t : State), exec i s = .next t →
    (t.decReq = none ∧ (∀ r, .ready r ∉ t.evout) ∧ s.hist <+: t.hist)
    ∨ (i = .tick ∧ s.hist ≠ [] ∧ t.decReq = some (finalPayload s.hist)
        ∧ t.evout.filter (fun e => e.kind = 0b11) = [.ready (Config.decode (finalPayload s.hist))]
        ∧ t.hist = [] ∧ t.tst = .idle ∧ t.dl = 0 ∧ t.flush = false)

/-- R29, R32 (g): FLUSH is raised only by a step that enters NoCarrier from an active state, and a step that accepts a
burst or finalizes a cycle leaves it clear. -/
def Obligations.FlushIsRaisedByCarrierLossOnly : Prop :=
  ∀ (i : Instr) (s t : State), exec i s = .next t →
    (s.flush = false → t.flush = true → s.fst ≠ .noCarrier ∧ t.fst = .noCarrier ∧ t.evout = [.noCarrier])
    ∧ (t.hist ≠ s.hist → t.flush = false)

/-- R107: NOP, CARRIER and FRESET change no Transport register but FLUSH, and BYTE only by a burst end: it never clears
the history, and TST, DL and FLUSH change only with it. -/
def Obligations.TransportChangesOnlyByBurstsAndTicks : Prop :=
  ∀ (i : Instr) (s t : State), exec i s = .next t → i ≠ .tick →
    (t.hist = s.hist ∧ t.tst = s.tst ∧ t.dl = s.dl
      ∧ (t.flush = s.flush ∨ (t.flush = true ∧ (i = .carrier false ∨ i = .freset))))
    ∨ ∃ b x, i = .byte b ∧ s.fst = .reading ∧ t.hist = s.hist ++ [x]

/-- R112: the Framer never reads the burst history, the deadline, FLUSH or TST: two states that differ only there take
the same command to the same Framer registers, the same fault and the same Framer events. -/
def Obligations.FramerIgnoresTheTransport : Prop :=
  ∀ (i : Instr) (s t : State) (h : List Slot) (d : Nat) (f : Bool) (m : TransportState), exec i s = .next t →
    ∃ t', exec i { s with hist := h, dl := d, flush := f, tst := m } = .next t'
      ∧ t'.fst = t.fst ∧ t'.win = t.win ∧ t'.pbuf = t.pbuf ∧ t'.lbt = t.lbt ∧ t'.tlast = t.tlast
      ∧ t'.fault = t.fault
      ∧ t'.evout.filter (fun e => e.kind ≠ 0b11) = t.evout.filter (fun e => e.kind ≠ 0b11)

/-- R112: the Transport never reads a Framer register: a TICK in which no burst ends takes two states that differ only
in the Framer to the same Transport registers, report and decoder request. -/
def Obligations.TransportIgnoresTheFramer : Prop :=
  ∀ (s t : State) (f : FramerState) (w p : List Byte) (l : Nat), exec .tick s = .next t →
    ¬ TimedOut s → ¬ TimedOut { s with fst := f, win := w, pbuf := p, lbt := l } →
    ∃ t', exec .tick { s with fst := f, win := w, pbuf := p, lbt := l } = .next t'
      ∧ t'.hist = t.hist ∧ t'.dl = t.dl ∧ t'.flush = t.flush ∧ t'.tst = t.tst ∧ t'.evout = t.evout
      ∧ t'.decReq = t.decReq ∧ t'.fault = t.fault

/-- R14: no step writes the parameters. -/
def Obligations.ParametersAreNeverWritten : Prop :=
  ∀ s t : State, step s = .next t → t.cfg = s.cfg

/-- R30: a command that does not fault leaves its `now` in TLAST, one that faults leaves TLAST, so time never runs
back. -/
def Obligations.TimeNeverRunsBack : Prop :=
  ∀ (i : Instr) (s t : State), exec i s = .next t →
    (t.fault = .none ∧ t.tlast = s.now ∧ s.tlast ≤ t.tlast) ∨ (t.fault ≠ .none ∧ t.tlast = s.tlast)

/-! ### Outputs (spec 10, 30) -/

/-- R21: `is_active` is 1 in Searching and Reading and 0 in NoCarrier. -/
def Obligations.IsActiveIffSearchingOrReading : Prop :=
  ∀ s : State, s.isActive = (decide (s.fst = .searching) || decide (s.fst = .reading))

/-- R34: every field of the status word, for a history of at most three bursts (R26, part of the invariant), and its
reset value. -/
def Obligations.StatusWordFields : Prop :=
  State.reset.status = 0x0000
    ∧ ∀ s : State, s.hist.length ≤ 3 →
        s.status.extractLsb' 0 2 = s.fst.code
          ∧ s.status.extractLsb' 2 1 = BitVec.ofBool s.isActive
          ∧ s.status.extractLsb' 3 1 = s.tst.code
          ∧ (s.status.extractLsb' 4 2).toNat = s.hist.length
          ∧ s.status.extractLsb' 6 1 = BitVec.ofBool s.flush
          ∧ s.status.extractLsb' 7 1 = 0
          ∧ s.status.extractLsb' 8 2 = s.fault.code
          ∧ s.status.extractLsb' 10 6 = 0

/-- R63, R64, R113, R31: the binary form of the events, the state codes as the kinds of the events of the same name, and
the four fault codes. -/
def Obligations.EventAndStateCodes : Prop :=
  Event.noCarrier.kind = 0b00 ∧ Event.searching.kind = 0b01 ∧ Event.reading.kind = 0b10
    ∧ (∀ r, (Event.ready r).kind = 0b11 ∧ (Event.ready r).result = some r)
    ∧ (∀ m, (Event.ready (.ok m)).okBit = 1) ∧ (∀ e, (Event.ready (.err e)).okBit = 0)
    ∧ (∀ e : Event, e.kind ≠ 0b11 → e.okBit = 0 ∧ e.result = none)
    ∧ (∀ f : FramerState, f.code = f.event.kind)
    ∧ TransportState.idle.code = 0 ∧ TransportState.assembling.code = 1
    ∧ FaultCode.none.code = 0 ∧ FaultCode.illegalCommand.code = 1 ∧ FaultCode.timeRegression.code = 2
    ∧ FaultCode.timeRange.code = 3

/-! ### Invariant and runs -/

/-- R32 (a) to (f) with R28, R91, R105, R106: the invariant holds at reset. That the configuration there is an unknown
legal one is the model's choice (log entry 4). -/
def Obligations.ResetMeetsTheInvariant : Prop :=
  Inv State.reset

/-- R32 (a) to (f) with R28, R91, R105, R106: every step keeps the invariant, from every state that has it. -/
def Obligations.StepKeepsTheInvariant : Prop :=
  ∀ s t : State, Inv s → step s = .next t → Inv t

/-- R137, R130: while the host keeps its duties on words and times, the block takes every input and never faults. The
inputs stand in State in the model's form (log entry 2). -/
def Obligations.DutifulHostNeverSeesAFault : Prop :=
  ∀ s : State, s.fault = .none → Dutiful s.cfg s.tlast s.input = true →
    ∀ k ≤ s.input.length, ∃ t, Host.Core.run Sys2Proof.core k s = .next t
      ∧ t.fault = .none ∧ t.input = s.input.drop k

/-- R138: a host that never issues TICK never receives Ready, however long it runs. -/
def Obligations.NoReadyWithoutATick : Prop :=
  ∀ (s : State) (k : Nat), (∀ c, .command c ∈ s.input → decode c.word ≠ .instr .tick) →
    ∀ r, .ready r ∉ runEvents k s
end

