-- ==== Sys2Proof/Laws/Decode.lean ====
section
/-! SUPPORT. The fields of an encoded command, and what the decoder answers field by field. -/

namespace Sys2Proof

/-- Bit `k` of an encoded command: the data field below bit 8, the opcode below bit 11, zero above (R57). -/
theorem getLsbD_encode (i : Instr) (k : Nat) :
    (encode i).getLsbD k =
      if k < 8 then i.data.getLsbD k else if k < 11 then i.opcode.getLsbD (k - 8) else false := by
  have h := BitVec.getLsbD_append (x := (0 : BitVec 5) ++ i.opcode) (y := i.data) (i := k)
  have h' := BitVec.getLsbD_append (x := (0 : BitVec 5)) (y := i.opcode) (i := k - 8)
  have hlt : (k - 8 < 3) = (k < 11 ∨ k < 8) := by simp only [eq_iff_iff]; omega
  unfold encode
  rw [h, h']
  by_cases h8 : k < 8 <;> by_cases h11 : k < 11 <;> simp [h8, h11, hlt]

@[simp] theorem zField_encode (i : Instr) : zField (encode i) = 0 := by
  apply BitVec.eq_of_getLsbD_eq
  intro k hk
  have h8 : ¬ 11 + k < 8 := by omega
  simp [zField, getLsbD_encode, h8]

@[simp] theorem opField_encode (i : Instr) : opField (encode i) = i.opcode := by
  apply BitVec.eq_of_getLsbD_eq
  intro k hk
  have : 8 + k < 11 := by omega
  simp [opField, getLsbD_encode, hk, this]

@[simp] theorem dField_encode (i : Instr) : dField (encode i) = i.data := by
  apply BitVec.eq_of_getLsbD_eq
  intro k hk
  simp [dField, getLsbD_encode, hk]

/-- A word is known by its three fields (R57). -/
theorem word_ext {v w : CmdWord} (hz : zField v = zField w) (ho : opField v = opField w)
    (hd : dField v = dField w) : v = w := by
  apply BitVec.eq_of_getLsbD_eq
  intro k hk
  have z := congrArg (fun x => x.getLsbD (k - 11)) hz
  have o := congrArg (fun x => x.getLsbD (k - 8)) ho
  have d := congrArg (fun x => x.getLsbD k) hd
  simp only [zField, opField, dField, BitVec.getLsbD_extractLsb'] at z o d
  by_cases h8 : k < 8
  · simpa [h8] using d
  · by_cases h11 : k < 11
    · have e : 8 + (k - 8) = k := by omega
      have l : k - 8 < 3 := by omega
      simpa [l, e] using o
    · have e : 11 + (k - 11) = k := by omega
      have l : k - 11 < 5 := by omega
      simpa [l, e] using z

/-- What the decoder answers, by the fields of the word: one lemma for every case of R58 to R61. -/
theorem decode_cases (w : CmdWord) :
    (zField w ≠ 0 ∧ decode w = .illegal .zNotZero)
    ∨ (zField w = 0 ∧ opField w = 0b000 ∧ decode w = decodeNoOperand .nop (dField w))
    ∨ (zField w = 0 ∧ opField w = 0b001 ∧ decode w = decodeCarrier (dField w))
    ∨ (zField w = 0 ∧ opField w = 0b010 ∧ decode w = .instr (.byte (dField w)))
    ∨ (zField w = 0 ∧ opField w = 0b011 ∧ decode w = decodeNoOperand .tick (dField w))
    ∨ (zField w = 0 ∧ opField w = 0b100 ∧ decode w = decodeNoOperand .freset (dField w))
    ∨ (zField w = 0 ∧ 0b100 < opField w ∧ decode w = .illegal .reservedOpcode) := by
  unfold decode
  by_cases hz : zField w = 0
  · generalize opField w = o
    revert o
    simp only [hz, ne_eq, not_true_eq_false, if_false, false_and, false_or, true_and]
    intro o; rcases (by decide : ∀ o : BitVec 3, o = 0 ∨ o = 1 ∨ o = 2 ∨ o = 3 ∨ o = 4 ∨ o = 5 ∨ o = 6 ∨ o = 7) o with h | h | h | h | h | h | h | h <;> subst h <;> simp
  · exact .inl ⟨hz, if_pos hz⟩

end Sys2Proof
end

