-- ==== Sys2Proof/Laws/State.lean ====
section
/-! SUPPORT. One lemma per field per update of the state, each true by `rfl`. -/

namespace Sys2Proof.Machine

@[simp] theorem anom_empty_truncated : Anom.empty.truncated = false := rfl
@[simp] theorem anom_empty_overcount : Anom.empty.overcount = false := rfl

@[simp] theorem emit_fst (ev : Event) (s : State) : (emit ev s).fst = s.fst := rfl
@[simp] theorem emit_win (ev : Event) (s : State) : (emit ev s).win = s.win := rfl
@[simp] theorem emit_pbuf (ev : Event) (s : State) : (emit ev s).pbuf = s.pbuf := rfl
@[simp] theorem emit_lbt (ev : Event) (s : State) : (emit ev s).lbt = s.lbt := rfl
@[simp] theorem emit_tst (ev : Event) (s : State) : (emit ev s).tst = s.tst := rfl
@[simp] theorem emit_hist (ev : Event) (s : State) : (emit ev s).hist = s.hist := rfl
@[simp] theorem emit_dl (ev : Event) (s : State) : (emit ev s).dl = s.dl := rfl
@[simp] theorem emit_flush (ev : Event) (s : State) : (emit ev s).flush = s.flush := rfl
@[simp] theorem emit_tlast (ev : Event) (s : State) : (emit ev s).tlast = s.tlast := rfl
@[simp] theorem emit_fault (ev : Event) (s : State) : (emit ev s).fault = s.fault := rfl
@[simp] theorem emit_evout (ev : Event) (s : State) : (emit ev s).evout = s.evout ++ [ev] := rfl
@[simp] theorem emit_anom (ev : Event) (s : State) : (emit ev s).anom = s.anom := rfl
@[simp] theorem emit_decReq (ev : Event) (s : State) : (emit ev s).decReq = s.decReq := rfl
@[simp] theorem emit_cfg (ev : Event) (s : State) : (emit ev s).cfg = s.cfg := rfl
@[simp] theorem emit_now (ev : Event) (s : State) : (emit ev s).now = s.now := rfl
@[simp] theorem emit_input (ev : Event) (s : State) : (emit ev s).input = s.input := rfl

@[simp] theorem raiseFault_fst (code : FaultCode) (s : State) : (raiseFault code s).fst = s.fst := rfl
@[simp] theorem raiseFault_win (code : FaultCode) (s : State) : (raiseFault code s).win = s.win := rfl
@[simp] theorem raiseFault_pbuf (code : FaultCode) (s : State) : (raiseFault code s).pbuf = s.pbuf := rfl
@[simp] theorem raiseFault_lbt (code : FaultCode) (s : State) : (raiseFault code s).lbt = s.lbt := rfl
@[simp] theorem raiseFault_tst (code : FaultCode) (s : State) : (raiseFault code s).tst = s.tst := rfl
@[simp] theorem raiseFault_hist (code : FaultCode) (s : State) : (raiseFault code s).hist = s.hist := rfl
@[simp] theorem raiseFault_dl (code : FaultCode) (s : State) : (raiseFault code s).dl = s.dl := rfl
@[simp] theorem raiseFault_flush (code : FaultCode) (s : State) : (raiseFault code s).flush = s.flush := rfl
@[simp] theorem raiseFault_tlast (code : FaultCode) (s : State) : (raiseFault code s).tlast = s.tlast := rfl
@[simp] theorem raiseFault_fault (code : FaultCode) (s : State) : (raiseFault code s).fault = code := rfl
@[simp] theorem raiseFault_evout (code : FaultCode) (s : State) : (raiseFault code s).evout = [] := rfl
@[simp] theorem raiseFault_anom (code : FaultCode) (s : State) : (raiseFault code s).anom = Anom.empty := rfl
@[simp] theorem raiseFault_decReq (code : FaultCode) (s : State) : (raiseFault code s).decReq = none := rfl
@[simp] theorem raiseFault_cfg (code : FaultCode) (s : State) : (raiseFault code s).cfg = s.cfg := rfl
@[simp] theorem raiseFault_now (code : FaultCode) (s : State) : (raiseFault code s).now = s.now := rfl
@[simp] theorem raiseFault_input (code : FaultCode) (s : State) : (raiseFault code s).input = s.input := rfl

@[simp] theorem beginStep_fst (s : State) : (beginStep s).fst = s.fst := rfl
@[simp] theorem beginStep_win (s : State) : (beginStep s).win = s.win := rfl
@[simp] theorem beginStep_pbuf (s : State) : (beginStep s).pbuf = s.pbuf := rfl
@[simp] theorem beginStep_lbt (s : State) : (beginStep s).lbt = s.lbt := rfl
@[simp] theorem beginStep_tst (s : State) : (beginStep s).tst = s.tst := rfl
@[simp] theorem beginStep_hist (s : State) : (beginStep s).hist = s.hist := rfl
@[simp] theorem beginStep_dl (s : State) : (beginStep s).dl = s.dl := rfl
@[simp] theorem beginStep_flush (s : State) : (beginStep s).flush = s.flush := rfl
@[simp] theorem beginStep_tlast (s : State) : (beginStep s).tlast = s.now := rfl
@[simp] theorem beginStep_fault (s : State) : (beginStep s).fault = s.fault := rfl
@[simp] theorem beginStep_evout (s : State) : (beginStep s).evout = [] := rfl
@[simp] theorem beginStep_anom (s : State) : (beginStep s).anom = Anom.empty := rfl
@[simp] theorem beginStep_decReq (s : State) : (beginStep s).decReq = none := rfl
@[simp] theorem beginStep_cfg (s : State) : (beginStep s).cfg = s.cfg := rfl
@[simp] theorem beginStep_now (s : State) : (beginStep s).now = s.now := rfl
@[simp] theorem beginStep_input (s : State) : (beginStep s).input = s.input := rfl

@[simp] theorem takeCommand_fst (c : Command) (rest : List HostInput) (s : State) : (takeCommand c rest s).fst = s.fst := rfl
@[simp] theorem takeCommand_win (c : Command) (rest : List HostInput) (s : State) : (takeCommand c rest s).win = s.win := rfl
@[simp] theorem takeCommand_pbuf (c : Command) (rest : List HostInput) (s : State) : (takeCommand c rest s).pbuf = s.pbuf := rfl
@[simp] theorem takeCommand_lbt (c : Command) (rest : List HostInput) (s : State) : (takeCommand c rest s).lbt = s.lbt := rfl
@[simp] theorem takeCommand_tst (c : Command) (rest : List HostInput) (s : State) : (takeCommand c rest s).tst = s.tst := rfl
@[simp] theorem takeCommand_hist (c : Command) (rest : List HostInput) (s : State) : (takeCommand c rest s).hist = s.hist := rfl
@[simp] theorem takeCommand_dl (c : Command) (rest : List HostInput) (s : State) : (takeCommand c rest s).dl = s.dl := rfl
@[simp] theorem takeCommand_flush (c : Command) (rest : List HostInput) (s : State) : (takeCommand c rest s).flush = s.flush := rfl
@[simp] theorem takeCommand_tlast (c : Command) (rest : List HostInput) (s : State) : (takeCommand c rest s).tlast = s.tlast := rfl
@[simp] theorem takeCommand_fault (c : Command) (rest : List HostInput) (s : State) : (takeCommand c rest s).fault = s.fault := rfl
@[simp] theorem takeCommand_evout (c : Command) (rest : List HostInput) (s : State) : (takeCommand c rest s).evout = s.evout := rfl
@[simp] theorem takeCommand_anom (c : Command) (rest : List HostInput) (s : State) : (takeCommand c rest s).anom = s.anom := rfl
@[simp] theorem takeCommand_decReq (c : Command) (rest : List HostInput) (s : State) : (takeCommand c rest s).decReq = s.decReq := rfl
@[simp] theorem takeCommand_cfg (c : Command) (rest : List HostInput) (s : State) : (takeCommand c rest s).cfg = s.cfg := rfl
@[simp] theorem takeCommand_now (c : Command) (rest : List HostInput) (s : State) : (takeCommand c rest s).now = c.now := rfl
@[simp] theorem takeCommand_input (c : Command) (rest : List HostInput) (s : State) : (takeCommand c rest s).input = rest := rfl

@[simp] theorem hardwareReset_fst (rest : List HostInput) (s : State) : (hardwareReset rest s).fst = .noCarrier := rfl
@[simp] theorem hardwareReset_win (rest : List HostInput) (s : State) : (hardwareReset rest s).win = [] := rfl
@[simp] theorem hardwareReset_pbuf (rest : List HostInput) (s : State) : (hardwareReset rest s).pbuf = [] := rfl
@[simp] theorem hardwareReset_lbt (rest : List HostInput) (s : State) : (hardwareReset rest s).lbt = 0 := rfl
@[simp] theorem hardwareReset_tst (rest : List HostInput) (s : State) : (hardwareReset rest s).tst = .idle := rfl
@[simp] theorem hardwareReset_hist (rest : List HostInput) (s : State) : (hardwareReset rest s).hist = [] := rfl
@[simp] theorem hardwareReset_dl (rest : List HostInput) (s : State) : (hardwareReset rest s).dl = 0 := rfl
@[simp] theorem hardwareReset_flush (rest : List HostInput) (s : State) : (hardwareReset rest s).flush = false := rfl
@[simp] theorem hardwareReset_tlast (rest : List HostInput) (s : State) : (hardwareReset rest s).tlast = 0 := rfl
@[simp] theorem hardwareReset_fault (rest : List HostInput) (s : State) : (hardwareReset rest s).fault = .none := rfl
@[simp] theorem hardwareReset_evout (rest : List HostInput) (s : State) : (hardwareReset rest s).evout = [] := rfl
@[simp] theorem hardwareReset_anom (rest : List HostInput) (s : State) : (hardwareReset rest s).anom = Anom.empty := rfl
@[simp] theorem hardwareReset_decReq (rest : List HostInput) (s : State) : (hardwareReset rest s).decReq = none := rfl
@[simp] theorem hardwareReset_cfg (rest : List HostInput) (s : State) : (hardwareReset rest s).cfg = s.cfg := rfl
@[simp] theorem hardwareReset_now (rest : List HostInput) (s : State) : (hardwareReset rest s).now = 0 := rfl
@[simp] theorem hardwareReset_input (rest : List HostInput) (s : State) : (hardwareReset rest s).input = rest := rfl

@[simp] theorem supplyWord_fst (s : State) (w : CmdWord) : (supplyWord s w).fst = s.fst := rfl
@[simp] theorem supplyWord_win (s : State) (w : CmdWord) : (supplyWord s w).win = s.win := rfl
@[simp] theorem supplyWord_pbuf (s : State) (w : CmdWord) : (supplyWord s w).pbuf = s.pbuf := rfl
@[simp] theorem supplyWord_lbt (s : State) (w : CmdWord) : (supplyWord s w).lbt = s.lbt := rfl
@[simp] theorem supplyWord_tst (s : State) (w : CmdWord) : (supplyWord s w).tst = s.tst := rfl
@[simp] theorem supplyWord_hist (s : State) (w : CmdWord) : (supplyWord s w).hist = s.hist := rfl
@[simp] theorem supplyWord_dl (s : State) (w : CmdWord) : (supplyWord s w).dl = s.dl := rfl
@[simp] theorem supplyWord_flush (s : State) (w : CmdWord) : (supplyWord s w).flush = s.flush := rfl
@[simp] theorem supplyWord_tlast (s : State) (w : CmdWord) : (supplyWord s w).tlast = s.tlast := rfl
@[simp] theorem supplyWord_fault (s : State) (w : CmdWord) : (supplyWord s w).fault = s.fault := rfl
@[simp] theorem supplyWord_evout (s : State) (w : CmdWord) : (supplyWord s w).evout = s.evout := rfl
@[simp] theorem supplyWord_anom (s : State) (w : CmdWord) : (supplyWord s w).anom = s.anom := rfl
@[simp] theorem supplyWord_decReq (s : State) (w : CmdWord) : (supplyWord s w).decReq = s.decReq := rfl
@[simp] theorem supplyWord_cfg (s : State) (w : CmdWord) : (supplyWord s w).cfg = s.cfg := rfl
@[simp] theorem supplyWord_now (s : State) (w : CmdWord) : (supplyWord s w).now = s.now := rfl
@[simp] theorem supplyWord_input (s : State) (w : CmdWord) : (supplyWord s w).input = .command { word := w, now := s.tlast } :: s.input := rfl

@[simp] theorem finalize_fst (s : State) : (finalize s).fst = s.fst := rfl
@[simp] theorem finalize_win (s : State) : (finalize s).win = s.win := rfl
@[simp] theorem finalize_pbuf (s : State) : (finalize s).pbuf = s.pbuf := rfl
@[simp] theorem finalize_lbt (s : State) : (finalize s).lbt = s.lbt := rfl
@[simp] theorem finalize_tst (s : State) : (finalize s).tst = .idle := rfl
@[simp] theorem finalize_hist (s : State) : (finalize s).hist = [] := rfl
@[simp] theorem finalize_dl (s : State) : (finalize s).dl = 0 := rfl
@[simp] theorem finalize_flush (s : State) : (finalize s).flush = false := rfl
@[simp] theorem finalize_tlast (s : State) : (finalize s).tlast = s.tlast := rfl
@[simp] theorem finalize_fault (s : State) : (finalize s).fault = s.fault := rfl
@[simp] theorem finalize_evout (s : State) : (finalize s).evout = s.evout ++ [.ready (Config.decode (finalPayload s.hist))] := rfl
@[simp] theorem finalize_anom (s : State) : (finalize s).anom = s.anom := rfl
@[simp] theorem finalize_decReq (s : State) : (finalize s).decReq = some (finalPayload s.hist) := rfl
@[simp] theorem finalize_cfg (s : State) : (finalize s).cfg = s.cfg := rfl
@[simp] theorem finalize_now (s : State) : (finalize s).now = s.now := rfl
@[simp] theorem finalize_input (s : State) : (finalize s).input = s.input := rfl

@[simp] theorem enterSearching_fst (s : State) : (enterSearching s).fst = .searching := rfl
@[simp] theorem enterSearching_win (s : State) : (enterSearching s).win = [] := rfl
@[simp] theorem enterSearching_pbuf (s : State) : (enterSearching s).pbuf = [] := rfl
@[simp] theorem enterSearching_lbt (s : State) : (enterSearching s).lbt = s.lbt := rfl
@[simp] theorem enterSearching_tst (s : State) : (enterSearching s).tst = s.tst := rfl
@[simp] theorem enterSearching_hist (s : State) : (enterSearching s).hist = s.hist := rfl
@[simp] theorem enterSearching_dl (s : State) : (enterSearching s).dl = s.dl := rfl
@[simp] theorem enterSearching_flush (s : State) : (enterSearching s).flush = s.flush := rfl
@[simp] theorem enterSearching_tlast (s : State) : (enterSearching s).tlast = s.tlast := rfl
@[simp] theorem enterSearching_fault (s : State) : (enterSearching s).fault = s.fault := rfl
@[simp] theorem enterSearching_evout (s : State) : (enterSearching s).evout = s.evout ++ [.searching] := rfl
@[simp] theorem enterSearching_anom (s : State) : (enterSearching s).anom = s.anom := rfl
@[simp] theorem enterSearching_decReq (s : State) : (enterSearching s).decReq = s.decReq := rfl
@[simp] theorem enterSearching_cfg (s : State) : (enterSearching s).cfg = s.cfg := rfl
@[simp] theorem enterSearching_now (s : State) : (enterSearching s).now = s.now := rfl
@[simp] theorem enterSearching_input (s : State) : (enterSearching s).input = s.input := rfl

@[simp] theorem enterNoCarrier_fst (s : State) : (enterNoCarrier s).fst = .noCarrier := rfl
@[simp] theorem enterNoCarrier_win (s : State) : (enterNoCarrier s).win = [] := rfl
@[simp] theorem enterNoCarrier_pbuf (s : State) : (enterNoCarrier s).pbuf = [] := rfl
@[simp] theorem enterNoCarrier_lbt (s : State) : (enterNoCarrier s).lbt = s.lbt := rfl
@[simp] theorem enterNoCarrier_tst (s : State) : (enterNoCarrier s).tst = s.tst := rfl
@[simp] theorem enterNoCarrier_hist (s : State) : (enterNoCarrier s).hist = s.hist := rfl
@[simp] theorem enterNoCarrier_dl (s : State) : (enterNoCarrier s).dl = s.dl := rfl
@[simp] theorem enterNoCarrier_flush (s : State) : (enterNoCarrier s).flush = true := rfl
@[simp] theorem enterNoCarrier_tlast (s : State) : (enterNoCarrier s).tlast = s.tlast := rfl
@[simp] theorem enterNoCarrier_fault (s : State) : (enterNoCarrier s).fault = s.fault := rfl
@[simp] theorem enterNoCarrier_evout (s : State) : (enterNoCarrier s).evout = s.evout ++ [.noCarrier] := rfl
@[simp] theorem enterNoCarrier_anom (s : State) : (enterNoCarrier s).anom = s.anom := rfl
@[simp] theorem enterNoCarrier_decReq (s : State) : (enterNoCarrier s).decReq = s.decReq := rfl
@[simp] theorem enterNoCarrier_cfg (s : State) : (enterNoCarrier s).cfg = s.cfg := rfl
@[simp] theorem enterNoCarrier_now (s : State) : (enterNoCarrier s).now = s.now := rfl
@[simp] theorem enterNoCarrier_input (s : State) : (enterNoCarrier s).input = s.input := rfl

@[simp] theorem enterReading_fst (t : Nat) (s : State) : (enterReading t s).fst = .reading := rfl
@[simp] theorem enterReading_win (t : Nat) (s : State) : (enterReading t s).win = [] := rfl
@[simp] theorem enterReading_pbuf (t : Nat) (s : State) : (enterReading t s).pbuf = [] := rfl
@[simp] theorem enterReading_lbt (t : Nat) (s : State) : (enterReading t s).lbt = t := rfl
@[simp] theorem enterReading_tst (t : Nat) (s : State) : (enterReading t s).tst = s.tst := rfl
@[simp] theorem enterReading_hist (t : Nat) (s : State) : (enterReading t s).hist = s.hist := rfl
@[simp] theorem enterReading_dl (t : Nat) (s : State) : (enterReading t s).dl = s.dl := rfl
@[simp] theorem enterReading_flush (t : Nat) (s : State) : (enterReading t s).flush = s.flush := rfl
@[simp] theorem enterReading_tlast (t : Nat) (s : State) : (enterReading t s).tlast = s.tlast := rfl
@[simp] theorem enterReading_fault (t : Nat) (s : State) : (enterReading t s).fault = s.fault := rfl
@[simp] theorem enterReading_evout (t : Nat) (s : State) : (enterReading t s).evout = s.evout ++ [.reading] := rfl
@[simp] theorem enterReading_anom (t : Nat) (s : State) : (enterReading t s).anom = s.anom := rfl
@[simp] theorem enterReading_decReq (t : Nat) (s : State) : (enterReading t s).decReq = s.decReq := rfl
@[simp] theorem enterReading_cfg (t : Nat) (s : State) : (enterReading t s).cfg = s.cfg := rfl
@[simp] theorem enterReading_now (t : Nat) (s : State) : (enterReading t s).now = s.now := rfl
@[simp] theorem enterReading_input (t : Nat) (s : State) : (enterReading t s).input = s.input := rfl

end Sys2Proof.Machine
end

