-- ==== Sys2Proof/Laws/Ops.lean ====
section
/-! SUPPORT. For each shared operation, one lemma that says everything it can do; cite it and leave the operation
folded. -/

namespace Sys2Proof.Machine

/-! ### The frame and the step -/

/-- Everything the frame of R70 can answer. -/
theorem frame_cases (body : State → State) (s : State) :
    (s.fault ≠ .none ∧ frame body s = .fault (.stuck s.fault))
    ∨ (s.fault = .none ∧ s.now < s.tlast ∧ frame body s = .next (raiseFault .timeRegression s))
    ∨ (s.fault = .none ∧ s.tlast ≤ s.now ∧ timeLimit s.cfg < s.now
        ∧ frame body s = .next (raiseFault .timeRange s))
    ∨ (Accepts s ∧ frame body s = .next (body (beginStep s))) := by
  unfold frame
  by_cases hf : s.fault = .none
  · by_cases h1 : s.now < s.tlast
    · simp [hf, h1]
    · by_cases h2 : timeLimit s.cfg < s.now
      · simp [hf, h1, h2, Nat.le_of_not_lt h1]
      · have h3 : s.now ≤ 2 ^ s.cfg.timeW - 1 - s.cfg.holdOff := Nat.le_of_not_lt h2
        simp [Accepts, hf, h1, h2, Nat.le_of_not_lt h1, h3]
  · simp [hf]

/-- An accepted command has its effect. -/
theorem frame_of_accepts {body : State → State} {s : State} (h : Accepts s) :
    frame body s = .next (body (beginStep s)) := by
  obtain ⟨hf, h1, h2⟩ := h
  have h2' : ¬ timeLimit s.cfg < s.now := Nat.not_lt.2 h2
  simp [frame, hf, Nat.not_lt.2 h1, h2']

/-- What can have happened when the frame answers a next state: one of the two time faults, or the effect. -/
theorem frame_next {body : State → State} {s t : State} (h : frame body s = .next t) :
    (s.fault = .none ∧ s.now < s.tlast ∧ t = raiseFault .timeRegression s)
    ∨ (s.fault = .none ∧ s.tlast ≤ s.now ∧ timeLimit s.cfg < s.now ∧ t = raiseFault .timeRange s)
    ∨ (Accepts s ∧ t = body (beginStep s)) := by
  rcases frame_cases body s with ⟨-, e⟩ | ⟨hf, h1, e⟩ | ⟨hf, h1, h2, e⟩ | ⟨ha, e⟩ <;> rw [e] at h
  · cases h
  · cases h; exact .inl ⟨hf, h1, rfl⟩
  · cases h; exact .inr (.inl ⟨hf, h1, h2, rfl⟩)
  · cases h; exact .inr (.inr ⟨ha, rfl⟩)

/-- The effect of each command, inside the frame. -/
def effect : Instr → State → State
  | .nop => fun s => s
  | .carrier p => carrierBody p
  | .byte b => byteBody b
  | .tick => tickBody
  | .freset => fresetBody

/-- Every command runs in the frame of R70. -/
theorem exec_eq_frame (i : Instr) (s : State) : exec i s = frame (effect i) s := by
  cases i <;> rfl

/-- An accepted command has its effect (R70). -/
theorem exec_of_accepts (i : Instr) {s : State} (h : Accepts s) :
    exec i s = .next (effect i (beginStep s)) := by
  rw [exec_eq_frame, frame_of_accepts h]

/-- What can have happened when a command answers a next state. -/
theorem exec_next {i : Instr} {s t : State} (h : exec i s = .next t) :
    (s.fault = .none ∧ s.now < s.tlast ∧ t = raiseFault .timeRegression s)
    ∨ (s.fault = .none ∧ s.tlast ≤ s.now ∧ timeLimit s.cfg < s.now ∧ t = raiseFault .timeRange s)
    ∨ (Accepts s ∧ t = effect i (beginStep s)) :=
  frame_next (exec_eq_frame i s ▸ h)

/-- What an illegal word does (R115, R117). -/
theorem illegalCommand_next {s t : State} (h : illegalCommand s = .next t) :
    s.fault = .none ∧ t = raiseFault .illegalCommand s := by
  unfold illegalCommand at h
  by_cases hf : s.fault = .none
  · simp [hf] at h; exact ⟨hf, h.symm⟩
  · simp [hf] at h

/-- What is left after the commands a faulted block does not take: nothing, or a hardware reset. -/
theorem dropCommands_cases (l : List HostInput) :
    (dropCommands l = [] ∧ HostInput.reset ∉ l)
    ∨ ∃ pre rest, l = pre ++ .reset :: rest ∧ HostInput.reset ∉ pre ∧ dropCommands l = .reset :: rest := by
  induction l with
  | nil => simp [dropCommands]
  | cons x l ih =>
    cases x with
    | reset => exact .inr ⟨[], l, by simp [dropCommands]⟩
    | command c =>
      rcases ih with ⟨h1, h2⟩ | ⟨pre, rest, h1, h2, h3⟩
      · exact .inl ⟨h1, by simp [h2]⟩
      · exact .inr ⟨.command c :: pre, rest, by simp [h1], by simp [h2], h3⟩

/-- What a step does when it answers a next state: a hardware reset, the fault of an illegal word, or a command. -/
theorem step_next {s t : State} (h : step s = .next t) :
    (∃ rest, t = hardwareReset rest s ∧ fetch s = .reset rest)
    ∨ (s.fault = .none ∧ ∃ c rest, s.input = .command c :: rest
        ∧ ((∃ why, decode c.word = .illegal why ∧ t = raiseFault .illegalCommand (takeCommand c rest s))
          ∨ ∃ i, decode c.word = .instr i ∧ exec i (takeCommand c rest s) = .next t)) := by
  have hc : ∀ c rest, fetch s = .command c rest → s.fault = .none ∧ s.input = .command c :: rest := by
    intro c rest hf
    unfold fetch at hf
    by_cases h0 : s.fault = .none
    · rw [if_pos h0] at hf
      split at hf <;> simp_all
    · rw [if_neg h0] at hf
      rcases dropCommands_cases s.input with ⟨e, -⟩ | ⟨pre, r, -, -, e⟩ <;> simp [e] at hf
  unfold step at h
  split at h
  · cases h
  · cases h
  · cases h; exact .inl ⟨_, rfl, by assumption⟩
  · rename_i c rest hf
    obtain ⟨h0, hin⟩ := hc c rest hf
    refine .inr ⟨h0, c, rest, hin, ?_⟩
    split at h
    · exact .inr ⟨_, by assumption, h⟩
    · obtain ⟨-, e⟩ := illegalCommand_next h
      exact .inl ⟨_, by assumption, e⟩

/-- A run whose first step answers a next state goes on from that state. -/
theorem run_succ_of_next {k : Nat} {s t : State} (h : step s = .next t) :
    Host.Core.run Sys2Proof.core (k + 1) s = Host.Core.run Sys2Proof.core k t := by
  have h' : Sys2Proof.core.step s = .next t := h
  exact (Host.Core.run.eq_2 Sys2Proof.core s k).trans (by rw [h'])

/-- The end of a run whose first step answers a next state. -/
theorem runEnd_succ_of_next {k : Nat} {s t : State} (h : step s = .next t) : runEnd (k + 1) s = runEnd k t := by
  simp only [runEnd, h]

/-- The events of a run whose first step answers a next state. -/
theorem runEvents_succ_of_next {k : Nat} {s t : State} (h : step s = .next t) :
    runEvents (k + 1) s = t.evout ++ runEvents k t := by
  simp only [runEvents, h]

/-! ### The Transport -/

/-- Accepting a burst (R93, R94). -/
theorem acceptBurst_cases (p : List Byte) (t : Nat) (s : State) :
    (s.hist.length = Config.maxBursts
        ∧ acceptBurst p t s = { s with anom := { s.anom with overcount := true } })
    ∨ (s.hist.length ≠ Config.maxBursts
        ∧ acceptBurst p t s =
          { s with
            hist := s.hist ++ [{ bytes := p, arrival := t }]
            dl := t + s.cfg.holdOff
            flush := false
            tst := .assembling }) := by
  unfold acceptBurst State.hcnt
  by_cases h : s.hist.length = Config.maxBursts <;> simp [h]

/-- The deadline check (R92) in the words of the claims. -/
theorem deadlinePassed_iff (s : State) : deadlinePassed s = true ↔ Due s := by
  unfold deadlinePassed Due
  rw [Bool.and_eq_true, Bool.or_eq_true, decide_eq_true_iff, decide_eq_true_iff]
  rfl

/-- The deadline check finalizes exactly the cycle that is due (R92). -/
theorem checkDeadline_cases (s : State) :
    (Due s ∧ checkDeadline s = finalize s) ∨ (¬ Due s ∧ checkDeadline s = s) := by
  unfold checkDeadline
  by_cases h : deadlinePassed s = true
  · exact .inl ⟨(deadlinePassed_iff s).1 h, by simp [h]⟩
  · exact .inr ⟨fun d => h ((deadlinePassed_iff s).2 d), by simp [h]⟩

/-! ### The Framer -/

/-- Ending a burst (R82): the payload is handed over and the Framer searches again. -/
theorem endBurst_cases (t : Nat) (s : State) :
    (s.hist.length = Config.maxBursts
        ∧ endBurst t s =
          { s with
            fst := .searching
            win := []
            pbuf := []
            anom := { s.anom with overcount := true }
            evout := s.evout ++ [.searching] })
    ∨ (s.hist.length ≠ Config.maxBursts
        ∧ endBurst t s =
          { s with
            fst := .searching
            win := []
            pbuf := []
            hist := s.hist ++ [{ bytes := s.pbuf, arrival := t }]
            dl := t + s.cfg.holdOff
            flush := false
            tst := .assembling
            evout := s.evout ++ [.searching] }) := by
  unfold endBurst
  rcases acceptBurst_cases s.pbuf t s with ⟨h, e⟩ | ⟨h, e⟩ <;> rw [e]
  · exact .inl ⟨h, rfl⟩
  · exact .inr ⟨h, rfl⟩

/-- The terminator compare (R81) says that the payload ends with a terminator, and that one exists. -/
theorem tailIsTerminator_iff (c : Config) (p : List Byte) :
    tailIsTerminator c p = true ↔ c.termBytes ≠ [] ∧ c.termBytes <:+ p := by
  unfold tailIsTerminator termLen
  simp only [Bool.and_eq_true, decide_eq_true_eq, List.length_pos_iff]
  constructor
  · rintro ⟨⟨h0, -⟩, h2⟩
    exact ⟨h0, h2 ▸ List.drop_suffix _ _⟩
  · rintro ⟨h0, q, rfl⟩
    simp [h0]

/-- The payload without its terminator (R81). -/
@[simp] theorem withoutTail_append (c : Config) (p : List Byte) : withoutTail c (p ++ c.termBytes) = p := by
  simp [withoutTail, termLen]

/-- The terminator check (R81). -/
theorem terminatorCheck_cases (t : Nat) (s : State) :
    (¬ (s.cfg.termBytes ≠ [] ∧ s.cfg.termBytes <:+ s.pbuf) ∧ terminatorCheck t s = s)
    ∨ ∃ p, s.cfg.termBytes ≠ [] ∧ s.pbuf = p ++ s.cfg.termBytes
        ∧ terminatorCheck t s = endBurst t { s with pbuf := p } := by
  unfold terminatorCheck
  by_cases h : tailIsTerminator s.cfg s.pbuf = true
  · obtain ⟨h0, p, hp⟩ := (tailIsTerminator_iff _ _).1 h
    refine .inr ⟨p, h0, hp.symm, ?_⟩
    rw [if_pos h, ← hp, withoutTail_append]
  · exact .inl ⟨fun d => h ((tailIsTerminator_iff _ _).2 d), by simp [h]⟩

/-- The window matches exactly when it is the prefix (R77). -/
theorem windowMatches_iff (c : Config) (w : List Byte) : windowMatches c w = true ↔ w = c.prefixBytes := by
  unfold windowMatches prefixLen
  simp only [Bool.and_eq_true, decide_eq_true_eq]
  exact ⟨And.right, fun h => ⟨congrArg List.length h, h⟩⟩

/-- BYTE while Searching (R77, R78). -/
theorem windowByte_cases (b : Byte) (s : State) :
    (shiftWindow s.cfg s.win b = s.cfg.prefixBytes
        ∧ windowByte b s =
          { s with fst := .reading, win := [], pbuf := [], lbt := s.now, evout := s.evout ++ [.reading] })
    ∨ (shiftWindow s.cfg s.win b ≠ s.cfg.prefixBytes
        ∧ windowByte b s = { s with win := shiftWindow s.cfg s.win b }) := by
  unfold windowByte
  by_cases h : windowMatches s.cfg (shiftWindow s.cfg s.win b) = true
  · exact .inl ⟨(windowMatches_iff _ _).1 h, by simp [h]; rfl⟩
  · exact .inr ⟨fun d => h ((windowMatches_iff _ _).2 d), by simp [h]⟩

/-- The shifted window keeps its bound (R22), for a non-empty prefix. -/
theorem length_shiftWindow_le {c : Config} {w : List Byte} {b : Byte} (hc : 1 ≤ c.prefixBytes.length)
    (hw : w.length ≤ c.prefixBytes.length) : (shiftWindow c w b).length ≤ c.prefixBytes.length := by
  unfold shiftWindow bufAppend prefixLen
  split <;> simp <;> omega

/-- The inter-byte check (R91) in the words of the claims. -/
theorem checkInterByte_cases (s : State) :
    (TimedOut s ∧ checkInterByte s = endBurst s.now s) ∨ (¬ TimedOut s ∧ checkInterByte s = s) := by
  unfold checkInterByte TimedOut interByteElapsed
  cases s.fst <;> cases hi : s.cfg.ibt <;> simp
  rename_i d
  by_cases h : d < s.now - s.lbt
  · exact .inl ⟨h, fun h' => absurd h (by omega)⟩
  · exact .inr ⟨by omega, fun h' => absurd h' h⟩

/-- The effect of CARRIER (R72). -/
theorem carrierBody_cases (p : Bool) (s : State) :
    (p = true ∧ s.fst = .noCarrier ∧ carrierBody p s = enterSearching s)
    ∨ (p = false ∧ s.fst ≠ .noCarrier ∧ carrierBody p s = enterNoCarrier s)
    ∨ ((p = true ↔ s.fst ≠ .noCarrier) ∧ carrierBody p s = s) := by
  unfold carrierBody
  cases p <;> cases s.fst <;> simp

/-- The effect of BYTE (R75 to R80). -/
theorem byteBody_cases (b : Byte) (s : State) :
    (s.fst = .noCarrier ∧ byteBody b s = s)
    ∨ (s.fst = .searching ∧ byteBody b s = windowByte b s)
    ∨ (s.fst = .reading ∧ s.pbuf.length = s.cfg.maxLen ∧ byteBody b s = truncateBurst s)
    ∨ (s.fst = .reading ∧ s.pbuf.length ≠ s.cfg.maxLen ∧ byteBody b s = appendByte b s) := by
  unfold byteBody State.plen
  cases s.fst <;> simp
  by_cases h : s.pbuf.length = s.cfg.maxLen <;> simp [h]

/-- The effect of FRESET (R83). -/
theorem fresetBody_cases (s : State) :
    (s.fst = .noCarrier ∧ fresetBody s = s) ∨ (s.fst ≠ .noCarrier ∧ fresetBody s = enterNoCarrier s) := by
  unfold fresetBody
  cases s.fst <;> simp

/-- The effect of TICK (R90). -/
theorem tickBody_eq (s : State) : tickBody s = checkDeadline (checkInterByte s) := rfl

end Sys2Proof.Machine
end

