-- ==== Sys2Proof/Laws/PerInstr.lean ====
section
/-! SUPPORT. Statements made per instruction: `EncodingFields` says that the word of a command has `z` = 0, the opcode
the map of spec 30 R58 gives its mnemonic in `op`, and in `d` what 30 R59 gives it. -/

namespace Sys2Proof.Laws.EncodingFields

/-- The opcode map of R58 and the data field of R59, written out. -/
def Statement (i : Instr) : Prop :=
  zField (encode i) = 0
    ∧ (i = .nop → opField (encode i) = 0b000 ∧ dField (encode i) = 0x00)
    ∧ (i = .carrier false → opField (encode i) = 0b001 ∧ dField (encode i) = 0x00)
    ∧ (i = .carrier true → opField (encode i) = 0b001 ∧ dField (encode i) = 0x01)
    ∧ (∀ b, i = .byte b → opField (encode i) = 0b010 ∧ dField (encode i) = b)
    ∧ (i = .tick → opField (encode i) = 0b011 ∧ dField (encode i) = 0x00)
    ∧ (i = .freset → opField (encode i) = 0b100 ∧ dField (encode i) = 0x00)

theorem nop : Statement .nop := by
  simp [Statement, Instr.opcode, Instr.data]

theorem carrier (p : Bool) : Statement (.carrier p) := by
  cases p <;> simp [Statement, Instr.opcode, Instr.data]

theorem byte (b : Byte) : Statement (.byte b) := by
  simp [Statement, Instr.opcode, Instr.data]

theorem tick : Statement .tick := by
  simp [Statement, Instr.opcode, Instr.data]

theorem freset : Statement .freset := by
  simp [Statement, Instr.opcode, Instr.data]

end Sys2Proof.Laws.EncodingFields
end

