-- ==== Sys2Proof/Laws/Vote.lean ====
section
/-! SUPPORT. What the vote says, bit by bit and in its length (spec 41 R96 to R98). -/

namespace Sys2Proof.Machine

/-- The consensus has the consensus length (R96). -/
@[simp] theorem length_consensus (h : List Slot) : (consensus h).length = consensusLength h := by
  simp [consensus]

/-- No burst is longer than the consensus (R96). -/
theorem length_le_consensusLength {h : List Slot} {b : Slot} (hb : b ∈ h) :
    b.bytes.length ≤ consensusLength h := by
  induction h with
  | nil => cases hb
  | cons a h ih =>
    rcases List.mem_cons.1 hb with rfl | hb
    · exact Nat.le_max_left _ _
    · exact Nat.le_trans (ih hb) (Nat.le_max_right _ _)

/-- The consensus is as long as one of the bursts (R96). -/
theorem exists_length_eq_consensusLength {h : List Slot} (hne : h ≠ []) :
    ∃ b ∈ h, b.bytes.length = consensusLength h := by
  induction h with
  | nil => exact absurd rfl hne
  | cons a h ih =>
    by_cases hle : consensusLength h ≤ a.bytes.length
    · exact ⟨a, by simp, (Nat.max_eq_left hle).symm⟩
    · have hne' : h ≠ [] := fun e => hle (by simp [e, consensusLength])
      obtain ⟨b, hb, e⟩ := ih hne'
      exact ⟨b, by simp [hb], e.trans (Nat.max_eq_right (Nat.le_of_not_le hle)).symm⟩

/-- A byte of the consensus is the voted byte of its position. -/
theorem consensus_getElem {h : List Slot} {i : Nat} (hi : i < (consensus h).length) :
    (consensus h)[i] = votedByte (contributors h i) := by
  simp [consensus]

/-- A bit of the voted byte is the voted bit (R98). -/
theorem getLsbD_votedByte (cs : List Byte) {j : Nat} (hj : j < 8) :
    (votedByte cs).getLsbD j = votedBit cs j := by
  simp [votedByte, hj]

/-- The contributing bursts are those longer than the position, in arrival order (R97). -/
theorem contributors_eq (h : List Slot) (i : Nat) :
    contributors h i = (h.filter fun b => i < b.bytes.length).map fun b => b.bytes.getD i 0 := by
  unfold contributors bufRead
  induction h with
  | nil => rfl
  | cons a h ih =>
    by_cases hi : i < a.bytes.length
    · simp [hi, ih]
    · simp [hi, ih]

end Sys2Proof.Machine
end

