-- ==== Sys2Proof/Tests/Slice0.lean ====
section
/-! SUPPORT. Tests whose expected results come from the spec (each names the vector of spec/95_test_vectors.md or the rule),
and for every statement with hypotheses a witness that meets them, at the boundary values of each clause. -/

namespace Sys2Proof.Tests

open Sys2Proof Sys2Proof.Machine

/-! ### Configurations and states -/

/-- The test configuration TC1 (95, section 0). -/
def tc1 : Config :=
  { prefixBytes := [0xAB, 0xAB], termBytes := [0x2E], maxLen := 4, holdOff := 10, ibt := some 5, timeW := 16 }

/-- TC1 with the hold-off 0 (V-TICK-7). -/
def tc1NoHoldOff : Config := { tc1 with holdOff := 0 }

/-- The reset state of a block with TC1. -/
def start : State := State.resetWith tc1

/-- The state `s` with a command's time `n` sampled. -/
def timed (s : State) (n : Nat) : State := { s with now := n }

/-- The state `s` with one command supplied. -/
def supplied (s : State) (w : CmdWord) (n : Nat) : State := { s with input := [.command { word := w, now := n }] }

/-- The state after an outcome, for outcomes that are a next state. -/
def after (o : Out) : State :=
  match o with
  | .next t => t
  | .fault _ => start
  | .refused _ => start

/-- One burst of payload [41], accepted at 5 (V-TICK-1). -/
def burst41 : Slot := { bytes := [0x41], arrival := 5 }

/-- Searching, nothing held. -/
def searching : State := { start with fst := .searching }

/-- Searching, one burst held, deadline 15 (V-TICK-1). -/
def oneHeld : State :=
  { searching with hist := [burst41], tst := .assembling, dl := 15, tlast := 5 }

/-- Reading, payload [41], last byte at 10, nothing held (V-TICK-2). -/
def reading41 : State := { start with fst := .reading, pbuf := [0x41], lbt := 10, tlast := 10 }

/-- Reading, payload [42], last byte at 15, three bursts held, deadline 22 (V-TICK-3). -/
def reading42Full : State :=
  { start with
    fst := .reading
    pbuf := [0x42]
    lbt := 15
    hist := [{ bytes := [0x41], arrival := 4 }, { bytes := [0x41], arrival := 8 }, { bytes := [0x41], arrival := 12 }]
    tst := .assembling
    dl := 22
    tlast := 15 }

/-- Reading with a full payload (V-BYTE-9). -/
def readingFull : State := { start with fst := .reading, pbuf := [0x01, 0x02, 0x03, 0x04], lbt := 6, tlast := 6 }

/-- Reading with a full payload and a full history (V-BYTE-10). -/
def readingFullFull : State := { reading42Full with pbuf := [0x01, 0x02, 0x03, 0x04] }

/-- The block after V-FLT-6: faulted by a time that went back. -/
def faulted : State := { start with tlast := 10, fault := .timeRegression }

/-! ### WellFormed: an ill-formed term for each check -/

theorem test_wf_tc1 : tc1.wf = true ∧ tc1.legal = true := by decide

/-- R13: an empty prefix is not legal. -/
theorem test_wf_refuses_empty_prefix :
    Config.prefixOk { tc1 with prefixBytes := [] } = false ∧ Config.wf { tc1 with prefixBytes := [] } = false := by decide

/-- R13: a maximum length 0 is not legal. -/
theorem test_wf_refuses_max_len_zero :
    Config.maxLenOk { tc1 with maxLen := 0 } = false ∧ Config.wf { tc1 with maxLen := 0 } = false := by decide

/-- R13: a time width 0 is not legal. -/
theorem test_wf_refuses_time_width_zero :
    Config.timeWOk { tc1 with timeW := 0, holdOff := 0 } = false
      ∧ Config.wf { tc1 with timeW := 0, holdOff := 0 } = false := by decide

/-- R13: a hold-off of 2^TIME_W is not legal, the largest time is. -/
theorem test_wf_refuses_wide_hold_off :
    Config.holdOffOk { tc1 with holdOff := 65536 } = false ∧ Config.wf { tc1 with holdOff := 65536 } = false
      ∧ Config.wf { tc1 with holdOff := 65535 } = true := by decide

/-- R56: a time is a TIME_W-bit value. -/
theorem test_wf_refuses_wide_time : tc1.timeOk 65536 = false ∧ tc1.timeOk 65535 = true := by decide

/-! ### Decoding: words written out from the tables of R57 to R59 -/

/-- z = 00000, op = 000, d = 00000000. -/
theorem test_decode_nop : decode 0b0000000000000000 = .instr .nop := by decide

/-- z = 00000, op = 001, d = 0000000p. -/
theorem test_decode_carrier :
    decode 0b0000000100000000 = .instr (.carrier false) ∧ decode 0b0000000100000001 = .instr (.carrier true) := by decide

/-- z = 00000, op = 010, d = b: 'A' is 01000001 (R65). -/
theorem test_decode_byte :
    decode 0b0000001001000001 = .instr (.byte 0x41) ∧ decode 0b0000001010101011 = .instr (.byte 0xAB) := by decide

/-- z = 00000, op = 011, d = 00000000. -/
theorem test_decode_tick : decode 0b0000001100000000 = .instr .tick := by decide

/-- z = 00000, op = 100, d = 00000000. -/
theorem test_decode_freset : decode 0b0000010000000000 = .instr .freset := by decide

/-- V-FLT-1 to V-FLT-5: illegal words, with the rule that makes each illegal. -/
theorem test_decode_illegal :
    decode 0x0500 = .illegal .reservedOpcode ∧ decode 0x0102 = .illegal .dataNotZero
      ∧ decode 0x0301 = .illegal .dataNotZero ∧ decode 0x0800 = .illegal .zNotZero
      ∧ decode 0x8200 = .illegal .zNotZero := by decide

/-- The words of the encoder, against R62. -/
theorem test_encode :
    encode .nop = 0x0000 ∧ encode (.carrier true) = 0x0101 ∧ encode (.byte 0xFF) = 0x02FF ∧ encode .tick = 0x0300
      ∧ encode .freset = 0x0400 := by decide

/-- The table's words, as the host gives them. -/
theorem test_decode_table_word :
    decodeTableWord 16 0x02FF = some (.byte 0xFF) ∧ decodeTableWord 16 0x0700 = none := by decide

/-- R65's examples of the assembler syntax. -/
theorem test_assembler_examples :
    (parseLine "@0 CARRIER 1".toList).map (fun l => assemble [l]) = some [.command { word := 0x0101, now := 0 }]
      ∧ (parseLine "@5 BYTE 'A'".toList).map (fun l => assemble [l]) = some [.command { word := 0x0241, now := 5 }]
      ∧ (parseLine "@9 TICK".toList).map (fun l => assemble [l]) = some [.command { word := 0x0300, now := 9 }] := by
  decide

/-! ### One step of each command -/

/-- V-NOP-2: the inter-byte timeout has passed, and NOP does not look. -/
theorem test_nop_checks_no_timer :
    (after (exec .nop (timed reading41 50))).fst = .reading
      ∧ (after (exec .nop (timed reading41 50))).tlast = 50 := by decide

/-- V-CAR-1, with its status word. -/
theorem test_carrier_on :
    (after (step (supplied start 0x0101 0))).evout = [.searching]
      ∧ (after (step (supplied start 0x0101 0))).status = 0x0005 := by decide

/-- V-CAR-5: the burst in progress is abandoned, not forwarded. -/
theorem test_carrier_off_abandons :
    (after (exec (.carrier false) (timed reading41 10))).pbuf = []
      ∧ (after (exec (.carrier false) (timed reading41 10))).flush = true
      ∧ (after (exec (.carrier false) (timed reading41 10))).hist = [] := by decide

/-- V-BYTE-8: the byte that fills the buffer completes the terminator. -/
theorem test_byte_terminator_fills_buffer :
    (after (exec (.byte 0x2E) (timed { reading41 with pbuf := [0x01, 0x02, 0x03] } 11))).hist
        = [{ bytes := [0x01, 0x02, 0x03], arrival := 11 }] := by decide

/-- V-BYTE-10: truncated and over-count in one step. -/
theorem test_byte_truncated_overcount :
    (after (exec (.byte 0x05) (timed readingFullFull 15))).anom = { truncated := true, overcount := true }
      ∧ (after (exec (.byte 0x05) (timed readingFullFull 15))).hist = readingFullFull.hist := by decide

/-- V-TICK-1: strictly after the deadline, the payload is decoded and reported. -/
theorem test_tick_reports :
    (after (exec .tick (timed oneHeld 16))).evout = [.ready (Config.decode [0x41])]
      ∧ (after (exec .tick (timed oneHeld 16))).decReq = some [0x41] := ⟨rfl, rfl⟩

/-- V-TICK-3: the timed-out burst is ignored, and the earlier deadline still finalizes. -/
theorem test_tick_overcount_then_reports :
    (after (exec .tick (timed reading42Full 23))).evout = [.searching, .ready (Config.decode [0x41])]
      ∧ (after (exec .tick (timed reading42Full 23))).anom = { truncated := false, overcount := true } := ⟨rfl, rfl⟩

/-- V-FRS-2: the history stays, FLUSH is set. -/
theorem test_freset_keeps_history :
    (after (exec .freset (timed { oneHeld with fst := .reading, pbuf := [0x41, 0x42] } 9))).evout = [.noCarrier]
      ∧ (after (exec .freset (timed { oneHeld with fst := .reading, pbuf := [0x41, 0x42] } 9))).hist = [burst41] := by
  decide

/-! ### Faults, reset, status, vote -/

/-- V-FLT-7: an illegal word at a time that goes back reports ILLEGAL_COMMAND. -/
theorem test_fault_priority :
    (after (step (supplied { start with tlast := 10 } 0x0500 5))).fault = .illegalCommand := by decide

/-- V-FLT-8, V-FLT-9: the largest legal time, and the first that is not. -/
theorem test_fault_time_range :
    (after (step (supplied start 0x0000 65526))).status = 0x0300
      ∧ (after (step (supplied start 0x0000 65525))).tlast = 65525 := by decide

/-- V-FLT-11: a faulted block has no step. -/
theorem test_fault_is_sticky : step (supplied faulted 0x0101 11) = .fault (.stuck .timeRegression) := rfl

/-- V-FLT-12: hardware reset from a faulted state. -/
theorem test_hardware_reset :
    after (step { oneHeld with fault := .timeRegression, input := [.reset] }) = start := by decide

/-- The table of 95, section 2.8. -/
theorem test_status_words :
    State.status start = 0x0000
      ∧ State.status { start with fst := .reading, tst := .assembling, hist := [burst41, burst41] } = 0x002E
      ∧ State.status { searching with tst := .assembling, hist := [burst41, burst41, burst41] } = 0x003D
      ∧ State.status { start with tst := .assembling, hist := [burst41], flush := true } = 0x0058
      ∧ State.status { start with fault := .timeRegression } = 0x0200 := by decide

/-- V-VOTE-1, V-VOTE-2. -/
theorem test_vote_three :
    finalPayload [⟨[0x41, 0x42], 0⟩, ⟨[0x41, 0x43], 1⟩, ⟨[0x40, 0x42, 0x7F], 2⟩] = [0x41, 0x42, 0x7F]
      ∧ finalPayload [⟨[0xCA], 0⟩, ⟨[0xA6], 1⟩, ⟨[0x6C], 2⟩] = [0xEE] := by decide

/-- V-VOTE-3, V-VOTE-4, V-VOTE-8, V-VOTE-10: ties, and bursts that end early. -/
theorem test_vote_ties :
    finalPayload [⟨[0x0F], 0⟩, ⟨[0xF0], 1⟩] = [0x0F]
      ∧ finalPayload [⟨[0x00, 0x00], 0⟩, ⟨[0xFF], 1⟩, ⟨[0xFF, 0xFF], 2⟩] = [0xFF, 0x00]
      ∧ finalPayload [⟨[], 0⟩, ⟨[0x41, 0x42], 1⟩] = [0x41, 0x42]
      ∧ finalPayload [⟨[0x01, 0x02, 0x03, 0x04], 0⟩, ⟨[0x41], 1⟩] = [0x01, 0x02, 0x03, 0x04] := by decide

/-- The block right after reset runs the command that the host places. -/
theorem test_reset_runs_first_command :
    (after (step (State.reset.withFetchWord 16 0x0101))).fst = .searching := by decide

/-! ### Witnesses: for each statement with hypotheses, states and operands that meet them, clause by clause -/

theorem witness_DecodeOfEncodeIsTheCommand :
    Instr.nop.wf = true ∧ (Instr.carrier true).wf = true ∧ (Instr.byte 0xFF).wf = true ∧ Instr.tick.wf = true
      ∧ Instr.freset.wf = true := by decide

theorem witness_EncodeOfDecodedIsTheWord : decode 0x02FF = .instr (.byte 0xFF) := by decide

theorem witness_LegalCommandWordsAreComplete :
    ∀ w ∈ ([0x0001, 0x00FF, 0x0102, 0x01FF, 0x0301, 0x03FF, 0x0401, 0x0500, 0xFFFF] : List CmdWord),
      w ≠ 0x0000 ∧ w ≠ 0x0100 ∧ w ≠ 0x0101 ∧ ¬ (0x0200 ≤ w ∧ w ≤ 0x02FF) ∧ w ≠ 0x0300 ∧ w ≠ 0x0400 := by
  simp

/-- One word for each clause, at its lowest and its highest bit or value. -/
theorem witness_IllegalWordTakesTheFault :
    (supplied start 0x0800 0).fault = .none
      ∧ (supplied start 0x0800 0).input = .command { word := 0x0800, now := 0 } :: []
      ∧ (∀ w ∈ ([0x0800, 0x8000] : List CmdWord), w.extractLsb' 11 5 ≠ 0)
      ∧ (∀ w ∈ ([0x0500, 0x0700] : List CmdWord), 0b100 < w.extractLsb' 8 3)
      ∧ (∀ w ∈ ([0x0001, 0x0080, 0x0301, 0x0380, 0x0401, 0x0480] : List CmdWord),
          (w.extractLsb' 8 3 = 0b000 ∨ w.extractLsb' 8 3 = 0b011 ∨ w.extractLsb' 8 3 = 0b100)
            ∧ w.extractLsb' 0 8 ≠ 0)
      ∧ (∀ w ∈ ([0x0102, 0x0180] : List CmdWord), w.extractLsb' 8 3 = 0b001 ∧ w.extractLsb' 1 7 ≠ 0) :=
  ⟨rfl, rfl, by simp, by simp, by simp, by simp⟩

theorem witness_PseudoCommandsAreTheirExpansion :
    ([0x5A, 0x43] : List Byte)[0]? = some 0x5A ∧ ([0x5A, 0x43] : List Byte)[1]? = some 0x43 := by decide

theorem witness_StepRunsTheDecodedCommand :
    (supplied start 0x0241 5).fault = .none
      ∧ (supplied start 0x0241 5).input = .command { word := 0x0241, now := 5 } :: []
      ∧ decode 0x0241 = .instr (.byte 0x41) := by decide

/-- One time below TLAST, one above TIME_LIMIT, and the two ends of the legal range. -/
theorem witness_TimeChecksComeBeforeEveryEffect :
    (timed oneHeld 4).fault = .none ∧ (timed oneHeld 4).now < (timed oneHeld 4).tlast
      ∧ (timed oneHeld 65526).tlast ≤ (timed oneHeld 65526).now
      ∧ 2 ^ oneHeld.cfg.timeW - 1 - oneHeld.cfg.holdOff < (timed oneHeld 65526).now
      ∧ (∀ n ∈ [5, 65525], (timed oneHeld n).tlast ≤ (timed oneHeld n).now
          ∧ (timed oneHeld n).now ≤ 2 ^ oneHeld.cfg.timeW - 1 - oneHeld.cfg.holdOff)
      ∧ oneHeld.cfg.legal = true := by decide

theorem witness_FaultedBlockHasNoStep :
    (supplied faulted 0x0101 11).fault ≠ .none ∧ .reset ∉ (supplied faulted 0x0101 11).input := by decide

/-- A faulted block to which the host gives a command and then a hardware reset (P6, steps 6 and 7). -/
def faultedThenReset : State := { faulted with input := [.command { word := 0x022E, now := 11 }, .reset] }

theorem witness_OnlyHardwareResetLeavesAFault :
    faultedThenReset.fault ≠ .none ∧ step faultedThenReset = .next (after (step faultedThenReset)) :=
  ⟨by decide, rfl⟩

theorem witness_HardwareResetSetsEveryRegister :
    ({ oneHeld with input := [.reset] } : State).input = .reset :: []
      ∧ faultedThenReset.fault ≠ .none ∧ step faultedThenReset = .next (after (step faultedThenReset)) :=
  ⟨rfl, by decide, rfl⟩

theorem witness_FirstCommandAfterResetIsAccepted :
    0 ≤ 2 ^ State.reset.cfg.timeW - 1 - State.reset.cfg.holdOff
      ∧ ∃ n, n = 2 ^ State.reset.cfg.timeW - 1 - State.reset.cfg.holdOff
          ∧ n ≤ 2 ^ State.reset.cfg.timeW - 1 - State.reset.cfg.holdOff :=
  ⟨Nat.zero_le _, _, rfl, Nat.le_refl _⟩

theorem witness_NopOnlyAdvancesTime : Accepts (timed oneHeld 5) ∧ Accepts (timed oneHeld 65525) := by decide

theorem witness_CarrierFollowsTheLevel :
    Accepts (timed start 0) ∧ start.fst = .noCarrier
      ∧ Accepts (timed oneHeld 6) ∧ oneHeld.fst ≠ .noCarrier
      ∧ Accepts (timed reading41 10) ∧ reading41.fst ≠ .noCarrier
      ∧ ((true = true ↔ oneHeld.fst ≠ .noCarrier) ∧ (false = true ↔ start.fst ≠ .noCarrier)) := by decide

theorem witness_FresetIsTheCarrierLossTransition :
    Accepts (timed start 0) ∧ start.fst = .noCarrier
      ∧ Accepts (timed oneHeld 9) ∧ oneHeld.fst ≠ .noCarrier
      ∧ oneHeld.hist ≠ [] ∧ (timed oneHeld 9).now ≤ 9 ∧ (timed oneHeld 9).now ≤ 65525
      ∧ 65525 ≤ 2 ^ oneHeld.cfg.timeW - 1 - oneHeld.cfg.holdOff := by decide

theorem witness_CarrierLossAlwaysReachesNoCarrier :
    Accepts (timed reading41 10) ∧ (reading41.fst ≠ .reading → reading41.pbuf = [])
      ∧ Accepts (timed start 0) ∧ (start.fst ≠ .reading → start.pbuf = []) := by decide

theorem witness_ByteIgnoredWithoutCarrier : Accepts (timed start 0) ∧ start.fst = .noCarrier := by decide

/-- Searching with a full window that does not match. -/
def windowFull : State := { searching with win := [0x01, 0xAB] }

/-- A full window takes a byte that completes the prefix, and one that does not; a window with room takes its first. -/
theorem witness_ByteInSearchingSlidesTheWindow :
    Accepts (timed windowFull 2) ∧ windowFull.fst = .searching
      ∧ [0xAB, 0xAB] = (if windowFull.win.length = windowFull.cfg.prefixBytes.length then windowFull.win.tail
          else windowFull.win) ++ [0xAB]
      ∧ [0xAB, 0xAB] = windowFull.cfg.prefixBytes
      ∧ [0xAB, 0x02] = (if windowFull.win.length = windowFull.cfg.prefixBytes.length then windowFull.win.tail
          else windowFull.win) ++ [0x02]
      ∧ [0xAB, 0x02] ≠ windowFull.cfg.prefixBytes
      ∧ Accepts (timed searching 2) ∧ searching.fst = .searching
      ∧ [0xAB] = (if searching.win.length = searching.cfg.prefixBytes.length then searching.win.tail
          else searching.win) ++ [0xAB]
      ∧ [0xAB] ≠ searching.cfg.prefixBytes := by decide

/-- V-BYTE-3: a false start, then the prefix at the last byte. -/
def falseStart : List (Byte × Nat) := [(0xAB, 1), (0x01, 2), (0xAB, 3), (0xAB, 4)]

/-- The stream of V-BYTE-3 with its last byte, which completes the prefix, and without it. -/
theorem witness_PrefixIsFoundWhereverItStarts :
    searching.cfg.legal = true ∧ searching.fault = .none ∧ searching.fst = .searching ∧ searching.win = []
      ∧ searching.pbuf = []
      ∧ timesOk searching.cfg searching.tlast (falseStart.map Prod.snd) = true
      ∧ (∀ m < falseStart.length, ¬ searching.cfg.prefixBytes <:+ (falseStart.map Prod.fst).take m)
      ∧ searching.cfg.prefixBytes <:+ falseStart.map Prod.fst
      ∧ timesOk searching.cfg searching.tlast ((falseStart.take 3).map Prod.snd) = true
      ∧ (∀ m < (falseStart.take 3).length,
          ¬ searching.cfg.prefixBytes <:+ ((falseStart.take 3).map Prod.fst).take m)
      ∧ ¬ searching.cfg.prefixBytes <:+ (falseStart.take 3).map Prod.fst := by decide

theorem witness_ByteBeyondMaxLenTruncates :
    Accepts (timed readingFull 7) ∧ readingFull.fst = .reading ∧ readingFull.pbuf.length = readingFull.cfg.maxLen
      ∧ readingFull.hist.length ≠ 3
      ∧ Accepts (timed readingFullFull 15) ∧ readingFullFull.fst = .reading
      ∧ readingFullFull.pbuf.length = readingFullFull.cfg.maxLen ∧ readingFullFull.hist.length = 3 := by decide

/-- One byte below a full payload (V-BYTE-8). -/
def oneBelow : State := { reading41 with pbuf := [0x01, 0x02, 0x03] }

/-- Reading, no payload byte yet (V-BYTE-7). -/
def readingEmpty : State := { reading41 with pbuf := [] }

/-- Also for the byte that fills the buffer. -/
theorem witness_ByteBelowMaxLenIsAppended :
    Accepts (timed reading41 10) ∧ reading41.fst = .reading ∧ reading41.pbuf.length < reading41.cfg.maxLen
      ∧ ¬ (reading41.cfg.termBytes ≠ [] ∧ reading41.cfg.termBytes <:+ reading41.pbuf ++ [0x42])
      ∧ Accepts (timed oneBelow 10) ∧ oneBelow.fst = .reading ∧ oneBelow.pbuf.length < oneBelow.cfg.maxLen
      ∧ ¬ (oneBelow.cfg.termBytes ≠ [] ∧ oneBelow.cfg.termBytes <:+ oneBelow.pbuf ++ [0x04]) := by decide

/-- For the empty payload, for the byte that fills the buffer, and with three bursts held. -/
theorem witness_TerminatorEndsTheBurst :
    Accepts (timed readingEmpty 10) ∧ readingEmpty.fst = .reading
      ∧ readingEmpty.pbuf.length < readingEmpty.cfg.maxLen ∧ readingEmpty.cfg.termBytes ≠ []
      ∧ readingEmpty.pbuf ++ [0x2E] = [] ++ readingEmpty.cfg.termBytes ∧ readingEmpty.hist.length ≠ 3
      ∧ Accepts (timed oneBelow 11) ∧ oneBelow.pbuf.length < oneBelow.cfg.maxLen
      ∧ oneBelow.pbuf ++ [0x2E] = [0x01, 0x02, 0x03] ++ oneBelow.cfg.termBytes
      ∧ Accepts (timed reading42Full 16) ∧ reading42Full.fst = .reading
      ∧ reading42Full.pbuf.length < reading42Full.cfg.maxLen ∧ reading42Full.cfg.termBytes ≠ []
      ∧ reading42Full.pbuf ++ [0x2E] = [0x42] ++ reading42Full.cfg.termBytes ∧ reading42Full.hist.length = 3 := by decide

/-- Three payload bytes; with the terminator they fill the buffer. -/
def payloadBytes : List (Byte × Nat) := [(0x41, 11), (0x42, 12), (0x43, 13)]

theorem witness_PayloadIsTheBytesReceived :
    readingEmpty.fault = .none ∧ readingEmpty.fst = .reading ∧ readingEmpty.pbuf = [] ∧ readingEmpty.hist.length < 3
      ∧ timesOk readingEmpty.cfg readingEmpty.tlast ((payloadBytes ++ [(0x2E, 14)]).map Prod.snd) = true
      ∧ readingEmpty.cfg.termBytes ≠ []
      ∧ (payloadBytes ++ [(0x2E, 14)]).map Prod.fst = [0x41, 0x42, 0x43] ++ readingEmpty.cfg.termBytes
      ∧ (payloadBytes ++ [(0x2E, 14)]).length ≤ readingEmpty.cfg.maxLen
      ∧ ∀ m ≤ payloadBytes.length, ¬ readingEmpty.cfg.termBytes <:+ (payloadBytes.map Prod.fst).take m := by decide

theorem witness_AcceptedBurstTakesTheNextSlot :
    exec (.byte 0x2E) (timed reading41 11) = .next (after (exec (.byte 0x2E) (timed reading41 11)))
      ∧ (timed reading41 11).fst = .reading
      ∧ (after (exec (.byte 0x2E) (timed reading41 11))).fst = .searching ∧ (timed reading41 11).hist.length < 3 :=
  ⟨rfl, rfl, rfl, by decide⟩

/-- A byte that ends the burst with nothing due, and a TICK at which the cycle is due as well. -/
theorem witness_OverCountBurstIsIgnored :
    exec (.byte 0x2E) (timed reading42Full 16) = .next (after (exec (.byte 0x2E) (timed reading42Full 16)))
      ∧ exec .tick (timed reading42Full 23) = .next (after (exec .tick (timed reading42Full 23)))
      ∧ reading42Full.fst = .reading
      ∧ (after (exec (.byte 0x2E) (timed reading42Full 16))).fst = .searching
      ∧ (after (exec .tick (timed reading42Full 23))).fst = .searching ∧ reading42Full.hist.length = 3 :=
  ⟨rfl, rfl, rfl, rfl, rfl, rfl⟩

/-- At the deadline the cycle is not due, one later it is; with FLUSH it is due before (V-TICK-1, V-TICK-6). -/
theorem witness_TickChecksTheDeadline :
    Accepts (timed oneHeld 15) ∧ ¬ TimedOut (timed oneHeld 15) ∧ ¬ Due (timed oneHeld 15)
      ∧ Accepts (timed oneHeld 16) ∧ ¬ TimedOut (timed oneHeld 16) ∧ Due (timed oneHeld 16)
      ∧ Accepts (timed { oneHeld with flush := true } 6) ∧ ¬ TimedOut (timed { oneHeld with flush := true } 6)
      ∧ Due (timed { oneHeld with flush := true } 6) := by decide

/-- One unit past the inter-byte timeout (V-TICK-2, V-TICK-3). -/
theorem witness_TickTimesOutTheBurst :
    Accepts (timed reading41 16) ∧ TimedOut (timed reading41 16) ∧ reading41.hist.length ≠ 3
      ∧ Accepts (timed reading42Full 22) ∧ TimedOut (timed reading42Full 22) ∧ reading42Full.hist.length = 3
      ∧ ¬ Due (timed reading42Full 22)
      ∧ Accepts (timed reading42Full 23) ∧ TimedOut (timed reading42Full 23) ∧ Due (timed reading42Full 23)
      ∧ ¬ TimedOut (timed reading41 15) := by decide

theorem witness_TickFromIdleDoesNothing :
    Accepts (timed start 100) ∧ start.hist = [] ∧ ¬ TimedOut (timed start 100)
      ∧ Accepts (timed reading41 15) ∧ reading41.hist = [] ∧ ¬ TimedOut (timed reading41 15) := by decide

theorem witness_SingleBurstIsReportedAfterItsDeadline :
    Accepts (timed oneHeld 15) ∧ ¬ TimedOut (timed oneHeld 15) ∧ oneHeld.hist = [burst41] ∧ oneHeld.flush = false
      ∧ (timed oneHeld 15).now ≤ oneHeld.dl
      ∧ Accepts (timed oneHeld 16) ∧ ¬ TimedOut (timed oneHeld 16) ∧ oneHeld.dl < (timed oneHeld 16).now := by decide

/-- The state after the report of V-TICK-1. -/
def reported : State := after (exec .tick (timed oneHeld 16))

/-- A step that reports; a later TICK that completes; and a later run of a TICK and a hardware reset that accepts no burst. -/
theorem witness_FinalizedCycleIsReportedOnce :
    exec .tick (timed oneHeld 16) = .next reported ∧ .ready (Config.decode [0x41]) ∈ reported.evout
      ∧ exec .tick { reported with now := 99 } = .next (after (exec .tick { reported with now := 99 }))
      ∧ ∀ j < 3, (runEnd j { reported with input := [.command { word := 0x0300, now := 99 }, .reset] }).hist = [] :=
  ⟨rfl, List.mem_singleton.2 rfl, rfl, by decide⟩

/-- With the hold-off 10 and, for the second clause, with the hold-off 0 (V-TICK-7) at its next time. -/
theorem witness_SameTimeTickDoesNotFinalizeTheNewBurst :
    exec (.byte 0x2E) (timed reading41 11) = .next (after (exec (.byte 0x2E) (timed reading41 11)))
      ∧ (after (exec (.byte 0x2E) (timed reading41 11))).hist ≠ (timed reading41 11).hist
      ∧ exec (.byte 0x2E) (timed { reading41 with cfg := tc1NoHoldOff } 11)
          = .next (after (exec (.byte 0x2E) (timed { reading41 with cfg := tc1NoHoldOff } 11)))
      ∧ (after (exec (.byte 0x2E) (timed { reading41 with cfg := tc1NoHoldOff } 11))).hist ≠ []
      ∧ tc1NoHoldOff.holdOff = 0 ∧ 11 < 12 ∧ 12 ≤ 2 ^ tc1NoHoldOff.timeW - 1 - tc1NoHoldOff.holdOff :=
  ⟨rfl, by decide, rfl, by decide, rfl, by decide, by decide⟩

theorem witness_ConsensusLengthIsTheLongestBurst : [burst41] ≠ [] := by decide

/-- A majority of ones, a majority of zeros and a tie (V-VOTE-1 at bit 0 of position 0, V-VOTE-2, V-VOTE-3). -/
theorem witness_EveryBitIsTheMajorityOfItsContributors :
    (consensus [⟨[0x41], 0⟩, ⟨[0x41], 1⟩, ⟨[0x40], 2⟩])[0]? = some 0x41
      ∧ ([0x41, 0x41, 0x40].filter fun c : Byte => c.getLsbD 0 = false).length
          < ([0x41, 0x41, 0x40].filter fun c : Byte => c.getLsbD 0 = true).length
      ∧ (consensus [⟨[0x40], 0⟩, ⟨[0x41], 1⟩, ⟨[0x40], 2⟩])[0]? = some 0x40
      ∧ ([0x40, 0x41, 0x40].filter fun c : Byte => c.getLsbD 0 = true).length
          < ([0x40, 0x41, 0x40].filter fun c : Byte => c.getLsbD 0 = false).length
      ∧ (consensus [⟨[0x0F], 0⟩, ⟨[0xF0], 1⟩])[0]? = some 0x0F
      ∧ ([0x0F, 0xF0].filter fun c : Byte => c.getLsbD 7 = true).length
          = ([0x0F, 0xF0].filter fun c : Byte => c.getLsbD 7 = false).length
      ∧ (([⟨[0x0F], 0⟩, ⟨[0xF0], 1⟩] : List Slot).filter fun b => 0 < b.bytes.length).map (fun b => b.bytes.getD 0 0)
          = [0x0F, 0xF0] := by decide

theorem witness_ByteWideConsensusEqualsTheBitVote : reading42Full.hist.length ≤ 3 := by decide

theorem witness_PayloadOfOneBurstIsThatBurst : [burst41, burst41] ≠ [] := by decide

/-- Each pair in turn agrees at bit 0, and the third burst differs; three identical bursts. -/
theorem witness_TwoAgreeingBurstsDecide :
    (finalPayload [⟨[0x41], 0⟩, ⟨[0x41], 1⟩, ⟨[0x40], 2⟩])[0]? = some 0x41
      ∧ (finalPayload [⟨[0x41], 0⟩, ⟨[0x40], 1⟩, ⟨[0x41], 2⟩])[0]? = some 0x41
      ∧ (finalPayload [⟨[0x40], 0⟩, ⟨[0x41], 1⟩, ⟨[0x41], 2⟩])[0]? = some 0x41
      ∧ (0x41 : Byte).getLsbD 0 ≠ (0x40 : Byte).getLsbD 0
      ∧ (⟨[0x41], 4⟩ : Slot).bytes = (⟨[0x41], 8⟩ : Slot).bytes := by decide

/-- V-VOTE-7: two empty bursts, due. -/
def emptyBursts : State :=
  { searching with
    hist := [{ bytes := [], arrival := 3 }, { bytes := [], arrival := 5 }]
    tst := .assembling
    dl := 15
    tlast := 5
    now := 16 }

theorem witness_EmptyBurstsAreStillReported :
    Accepts emptyBursts ∧ ¬ TimedOut emptyBursts ∧ Due emptyBursts ∧ ∀ b ∈ emptyBursts.hist, b.bytes = [] := by decide

theorem witness_FramerEventsNameTheStateChange :
    exec (.carrier true) start = .next (after (exec (.carrier true) start)) := rfl

theorem witness_EventsOfAStepAreInOrder :
    exec .tick (timed reading42Full 23) = .next (after (exec .tick (timed reading42Full 23)))
      ∧ exec (.byte 0x2E) (timed reading41 11) = .next (after (exec (.byte 0x2E) (timed reading41 11)))
      ∧ Instr.byte 0x2E ≠ .tick := ⟨rfl, rfl, by decide⟩

theorem witness_DecoderIsCalledOncePerFinalization :
    exec .tick (timed oneHeld 16) = .next (after (exec .tick (timed oneHeld 16))) := rfl

theorem witness_FlushIsRaisedByCarrierLossOnly :
    exec (.carrier false) (timed oneHeld 6) = .next (after (exec (.carrier false) (timed oneHeld 6)))
      ∧ oneHeld.flush = false ∧ (after (exec (.carrier false) (timed oneHeld 6))).flush = true
      ∧ exec (.byte 0x2E) (timed reading41 11) = .next (after (exec (.byte 0x2E) (timed reading41 11)))
      ∧ (after (exec (.byte 0x2E) (timed reading41 11))).hist ≠ (timed reading41 11).hist :=
  ⟨rfl, rfl, rfl, rfl, by decide⟩

theorem witness_TransportChangesOnlyByBurstsAndTicks :
    exec .freset (timed oneHeld 6) = .next (after (exec .freset (timed oneHeld 6))) ∧ Instr.freset ≠ .tick
      ∧ exec (.byte 0x2E) (timed reading41 11) = .next (after (exec (.byte 0x2E) (timed reading41 11)))
      ∧ Instr.byte 0x2E ≠ .tick := ⟨rfl, by decide, rfl, by decide⟩

theorem witness_FramerIgnoresTheTransport :
    exec (.byte 0x2E) (timed reading41 11) = .next (after (exec (.byte 0x2E) (timed reading41 11))) := rfl

theorem witness_TransportIgnoresTheFramer :
    exec .tick (timed oneHeld 16) = .next (after (exec .tick (timed oneHeld 16))) ∧ ¬ TimedOut (timed oneHeld 16)
      ∧ ¬ TimedOut { timed oneHeld 16 with fst := .reading, win := [], pbuf := [0x42], lbt := 11 } :=
  ⟨rfl, by decide, by decide⟩

theorem witness_ParametersAreNeverWritten :
    step (supplied start 0x0101 0) = .next (after (step (supplied start 0x0101 0))) := rfl

/-- A step that completes, and one that faults. -/
theorem witness_TimeNeverRunsBack :
    exec .nop (timed oneHeld 6) = .next (after (exec .nop (timed oneHeld 6)))
      ∧ exec .nop (timed oneHeld 4) = .next (after (exec .nop (timed oneHeld 4))) := ⟨rfl, rfl⟩

theorem witness_StatusWordFields : reading42Full.hist.length ≤ 3 ∧ start.hist.length ≤ 3 := by decide

theorem witness_EventAndStateCodes : Event.reading.kind ≠ 0b11 := by decide

/-- A state with a burst in progress, a burst held and a command supplied, that has the invariant. -/
def busy : State :=
  { oneHeld with
    fst := .reading
    pbuf := [0x41, 0x42, 0x43]
    lbt := 9
    tlast := 9
    input := [.command { word := 0x022E, now := 10 }] }

theorem witness_StepKeepsTheInvariant : Inv busy ∧ step busy = .next (after (step busy)) :=
  ⟨{ legal := by decide
     idle_iff := by decide
     no_payload := by decide
     payload_fits := by decide
     bursts_fit := by decide
     window_fits := by decide
     window_differs := by decide
     no_window := by decide
     arrivals_rise := by decide
     arrivals_past := by decide
     deadline := by decide
     no_deadline := by decide
     count := by decide
     last_byte_past := by decide
     time_in_range := by decide }, rfl⟩

/-- Commands at equal times, at the largest legal time, and after a hardware reset at 0 again. -/
theorem witness_DutifulHostNeverSeesAFault :
    start.fault = .none
      ∧ Dutiful tc1 start.tlast
          [.command { word := 0x0101, now := 10 }, .command { word := 0x02FF, now := 10 },
           .command { word := 0x0300, now := 65525 }, .reset, .command { word := 0x0000, now := 0 }] = true := by decide

theorem witness_NoReadyWithoutATick :
    ∀ c, HostInput.command c ∈ (supplied oneHeld 0x0000 99).input → decode c.word ≠ .instr .tick := by
  intro c hc
  have e : c = { word := 0x0000, now := 99 } := by simpa [supplied] using hc
  rw [e]
  decide

end Sys2Proof.Tests
end

section
/-! PROOFS. The parameters in every step (spec 00 R14), and the invariant at reset (10 R32, 70 R133). -/

namespace Sys2Proof.Machine

/-! ### No operation writes the parameters (R14)

`Laws/State.lean` says it of the operations that always write the same fields; here it is said of those that branch, and of
the effect of each command. -/

@[simp] theorem acceptBurst_cfg (p : List Byte) (t : Nat) (s : State) : (acceptBurst p t s).cfg = s.cfg := by
  rcases acceptBurst_cases p t s with ⟨-, e⟩ | ⟨-, e⟩ <;> rw [e]

@[simp] theorem checkDeadline_cfg (s : State) : (checkDeadline s).cfg = s.cfg := by
  rcases checkDeadline_cases s with ⟨-, e⟩ | ⟨-, e⟩ <;> rw [e]
  exact finalize_cfg s

@[simp] theorem endBurst_cfg (t : Nat) (s : State) : (endBurst t s).cfg = s.cfg := by
  rcases endBurst_cases t s with ⟨-, e⟩ | ⟨-, e⟩ <;> rw [e]

@[simp] theorem terminatorCheck_cfg (t : Nat) (s : State) : (terminatorCheck t s).cfg = s.cfg := by
  rcases terminatorCheck_cases t s with ⟨-, e⟩ | ⟨p, -, -, e⟩ <;> rw [e]
  exact endBurst_cfg t _

@[simp] theorem windowByte_cfg (b : Byte) (s : State) : (windowByte b s).cfg = s.cfg := by
  rcases windowByte_cases b s with ⟨-, e⟩ | ⟨-, e⟩ <;> rw [e]

@[simp] theorem truncateBurst_cfg (s : State) : (truncateBurst s).cfg = s.cfg := endBurst_cfg _ _

@[simp] theorem appendByte_cfg (b : Byte) (s : State) : (appendByte b s).cfg = s.cfg := terminatorCheck_cfg _ _

@[simp] theorem checkInterByte_cfg (s : State) : (checkInterByte s).cfg = s.cfg := by
  rcases checkInterByte_cases s with ⟨-, e⟩ | ⟨-, e⟩ <;> rw [e]
  exact endBurst_cfg _ s

@[simp] theorem carrierBody_cfg (p : Bool) (s : State) : (carrierBody p s).cfg = s.cfg := by
  rcases carrierBody_cases p s with ⟨-, -, e⟩ | ⟨-, -, e⟩ | ⟨-, e⟩ <;> simp [e]

@[simp] theorem byteBody_cfg (b : Byte) (s : State) : (byteBody b s).cfg = s.cfg := by
  rcases byteBody_cases b s with ⟨-, e⟩ | ⟨-, e⟩ | ⟨-, -, e⟩ | ⟨-, -, e⟩ <;> simp [e]

@[simp] theorem tickBody_cfg (s : State) : (tickBody s).cfg = s.cfg := by simp [tickBody_eq]

@[simp] theorem fresetBody_cfg (s : State) : (fresetBody s).cfg = s.cfg := by
  rcases fresetBody_cases s with ⟨-, e⟩ | ⟨-, e⟩ <;> simp [e]

@[simp] theorem effect_cfg (i : Instr) (s : State) : (effect i s).cfg = s.cfg := by
  cases i with
  | nop => rfl
  | carrier p => exact carrierBody_cfg p s
  | byte b => exact byteBody_cfg b s
  | tick => exact tickBody_cfg s
  | freset => exact fresetBody_cfg s

/-- A command that answers a next state, a time fault included, leaves the parameters (R14). -/
theorem exec_next_cfg {i : Instr} {s t : State} (h : exec i s = .next t) : t.cfg = s.cfg := by
  rcases exec_next h with ⟨-, -, rfl⟩ | ⟨-, -, -, rfl⟩ | ⟨-, rfl⟩
  · exact raiseFault_cfg _ s
  · exact raiseFault_cfg _ s
  · exact (effect_cfg i _).trans (beginStep_cfg s)

/-- Settles O47: a step is a hardware reset, the fault of an illegal word or a command, and none of them writes the
parameters. -/
theorem parametersAreNeverWritten : Obligations.ParametersAreNeverWritten := by
  intro s t h
  rcases step_next h with ⟨rest, rfl, -⟩ | ⟨-, c, rest, -, ⟨_, -, rfl⟩ | ⟨i, -, hexec⟩⟩
  · exact hardwareReset_cfg rest s
  · exact (raiseFault_cfg _ _).trans (takeCommand_cfg c rest s)
  · exact (exec_next_cfg hexec).trans (takeCommand_cfg c rest s)

/-! ### The invariant at reset (R133) -/

/-- The checks of R13 in the words of the claims. -/
theorem legal_iff {c : Config} :
    c.legal = true ↔
      1 ≤ c.prefixBytes.length ∧ 1 ≤ c.maxLen ∧ 1 ≤ c.timeW ∧ c.holdOff < 2 ^ c.timeW := by
  simp [Config.legal, and_assoc]

/-- The configuration at reset is legal, whatever the integrator chose (R13, R135; log entry 4). -/
theorem hw_legal : Config.hw.legal = true := by
  unfold Config.hw
  split
  case isTrue h => exact h
  case isFalse => decide

/-- The reset values of R133 meet the invariant for every legal configuration, whatever the host has supplied: the buffers
are empty and every time is 0. A hardware reset and `State.reset` are both such states. -/
theorem inv_resetWith {c : Config} (hc : c.legal = true) (l : List HostInput) :
    Inv { State.resetWith c with input := l } where
  legal := hc
  idle_iff := iff_of_true rfl rfl
  no_payload _ := rfl
  payload_fits := Nat.zero_le _
  bursts_fit := List.forall_mem_nil _
  window_fits := Nat.zero_le _
  window_differs := by
    obtain ⟨hprefix, -, -, -⟩ := legal_iff.1 hc
    exact (List.ne_nil_of_length_pos hprefix).symm
  no_window _ := rfl
  arrivals_rise := List.Pairwise.nil
  arrivals_past := List.forall_mem_nil _
  deadline _ hb := nomatch hb
  no_deadline _ := rfl
  count := Nat.zero_le _
  last_byte_past := Nat.le_refl _
  time_in_range := Nat.zero_le _

/-- Settles O52: the reset values meet the invariant, and the configuration at reset is legal. -/
theorem resetMeetsTheInvariant : Obligations.ResetMeetsTheInvariant :=
  inv_resetWith hw_legal []

end Sys2Proof.Machine
end

section
/-! PROOFS. What the effect of a command never writes (spec 40 R70), and the time of a step (10 R30). -/

namespace Sys2Proof.Machine

/-- What the frame of R70 and the host hold, and the effect of a command does not write: TLAST, FAULT, the time input and
the inputs not yet taken. -/
structure KeepsFrame (s t : State) : Prop where
  tlast : t.tlast = s.tlast
  fault : t.fault = s.fault
  now : t.now = s.now
  input : t.input = s.input

theorem KeepsFrame.refl (s : State) : KeepsFrame s s := ⟨rfl, rfl, rfl, rfl⟩

theorem KeepsFrame.trans {s t u : State} (h : KeepsFrame s t) (h' : KeepsFrame t u) : KeepsFrame s u :=
  ⟨h'.tlast.trans h.tlast, h'.fault.trans h.fault, h'.now.trans h.now, h'.input.trans h.input⟩

theorem keepsFrame_enterSearching (s : State) : KeepsFrame s (enterSearching s) := ⟨rfl, rfl, rfl, rfl⟩

theorem keepsFrame_enterNoCarrier (s : State) : KeepsFrame s (enterNoCarrier s) := ⟨rfl, rfl, rfl, rfl⟩

theorem keepsFrame_acceptBurst (p : List Byte) (t : Nat) (s : State) : KeepsFrame s (acceptBurst p t s) := by
  rcases acceptBurst_cases p t s with ⟨-, e⟩ | ⟨-, e⟩ <;> rw [e] <;> exact ⟨rfl, rfl, rfl, rfl⟩

theorem keepsFrame_checkDeadline (s : State) : KeepsFrame s (checkDeadline s) := by
  rcases checkDeadline_cases s with ⟨-, e⟩ | ⟨-, e⟩ <;> rw [e]
  · exact ⟨rfl, rfl, rfl, rfl⟩
  · exact .refl s

theorem keepsFrame_endBurst (t : Nat) (s : State) : KeepsFrame s (endBurst t s) :=
  (keepsFrame_acceptBurst s.pbuf t s).trans (keepsFrame_enterSearching _)

theorem keepsFrame_terminatorCheck (t : Nat) (s : State) : KeepsFrame s (terminatorCheck t s) := by
  rcases terminatorCheck_cases t s with ⟨-, e⟩ | ⟨p, -, -, e⟩ <;> rw [e]
  · exact .refl s
  · exact { keepsFrame_endBurst t { s with pbuf := p } with }

theorem keepsFrame_windowByte (b : Byte) (s : State) : KeepsFrame s (windowByte b s) := by
  rcases windowByte_cases b s with ⟨-, e⟩ | ⟨-, e⟩ <;> rw [e] <;> exact ⟨rfl, rfl, rfl, rfl⟩

theorem keepsFrame_truncateBurst (s : State) : KeepsFrame s (truncateBurst s) :=
  { keepsFrame_endBurst s.now { s with anom := { s.anom with truncated := true } } with }

theorem keepsFrame_appendByte (b : Byte) (s : State) : KeepsFrame s (appendByte b s) :=
  { keepsFrame_terminatorCheck s.now { s with pbuf := bufAppend s.pbuf b, lbt := s.now } with }

theorem keepsFrame_checkInterByte (s : State) : KeepsFrame s (checkInterByte s) := by
  rcases checkInterByte_cases s with ⟨-, e⟩ | ⟨-, e⟩ <;> rw [e]
  · exact keepsFrame_endBurst s.now s
  · exact .refl s

theorem keepsFrame_carrierBody (p : Bool) (s : State) : KeepsFrame s (carrierBody p s) := by
  rcases carrierBody_cases p s with ⟨-, -, e⟩ | ⟨-, -, e⟩ | ⟨-, e⟩ <;> rw [e]
  · exact keepsFrame_enterSearching s
  · exact keepsFrame_enterNoCarrier s
  · exact .refl s

theorem keepsFrame_byteBody (b : Byte) (s : State) : KeepsFrame s (byteBody b s) := by
  rcases byteBody_cases b s with ⟨-, e⟩ | ⟨-, e⟩ | ⟨-, -, e⟩ | ⟨-, -, e⟩ <;> rw [e]
  · exact .refl s
  · exact keepsFrame_windowByte b s
  · exact keepsFrame_truncateBurst s
  · exact keepsFrame_appendByte b s

theorem keepsFrame_tickBody (s : State) : KeepsFrame s (tickBody s) :=
  (keepsFrame_checkInterByte s).trans (keepsFrame_checkDeadline _)

theorem keepsFrame_fresetBody (s : State) : KeepsFrame s (fresetBody s) := by
  rcases fresetBody_cases s with ⟨-, e⟩ | ⟨-, e⟩ <;> rw [e]
  · exact .refl s
  · exact keepsFrame_enterNoCarrier s

/-- The effect of a command writes neither TLAST nor FAULT, the time input or the inputs. -/
theorem keepsFrame_effect (i : Instr) (s : State) : KeepsFrame s (effect i s) := by
  cases i with
  | nop => exact .refl s
  | carrier p => exact keepsFrame_carrierBody p s
  | byte b => exact keepsFrame_byteBody b s
  | tick => exact keepsFrame_tickBody s
  | freset => exact keepsFrame_fresetBody s

@[simp] theorem effect_tlast (i : Instr) (s : State) : (effect i s).tlast = s.tlast := (keepsFrame_effect i s).tlast
@[simp] theorem effect_fault (i : Instr) (s : State) : (effect i s).fault = s.fault := (keepsFrame_effect i s).fault
@[simp] theorem effect_now (i : Instr) (s : State) : (effect i s).now = s.now := (keepsFrame_effect i s).now
@[simp] theorem effect_input (i : Instr) (s : State) : (effect i s).input = s.input := (keepsFrame_effect i s).input

/-- Settles O48: the two time faults leave TLAST; an accepted command starts with `TLAST <- now`, and its effect leaves
TLAST and FAULT. -/
theorem timeNeverRunsBack : Obligations.TimeNeverRunsBack := by
  intro i s t h
  rcases exec_next h with ⟨-, -, rfl⟩ | ⟨-, -, -, rfl⟩ | ⟨⟨hfault, hpast, -⟩, rfl⟩
  · exact .inr ⟨by simp, raiseFault_tlast _ s⟩
  · exact .inr ⟨by simp, raiseFault_tlast _ s⟩
  · exact .inl ⟨by simp [hfault], by simp, by simpa using hpast⟩

end Sys2Proof.Machine
end

section
/-! PROOFS. Every step keeps the invariant (spec 10 R32). The Transport's and the Framer's operations keep it one by one;
an operation that stores a time stores the time of the step, which TLAST holds since the start of the step (40 R70). -/

namespace Sys2Proof.Machine

/-! ### Outside the effects: the invariant names no output, no fault and no input -/

theorem inv_raiseFault {s : State} (h : Inv s) (code : FaultCode) : Inv (raiseFault code s) := { h with }

theorem inv_takeCommand {s : State} (h : Inv s) (c : Command) (rest : List HostInput) :
    Inv (takeCommand c rest s) := { h with }

/-- The start of an accepted step moves TLAST forward, in range. -/
theorem inv_beginStep {s : State} (h : Inv s) (ha : Accepts s) : Inv (beginStep s) := by
  obtain ⟨-, hpast, hrange⟩ := ha
  exact
    { h with
      arrivals_past := fun b hb => (h.arrivals_past b hb).trans hpast
      last_byte_past := h.last_byte_past.trans hpast
      time_in_range := hrange }

/-! ### The Transport -/

/-- Accepting a burst that fits, at the time of the step. -/
theorem inv_acceptBurst {s : State} (h : Inv s) {p : List Byte} (hp : p.length ≤ s.cfg.maxLen) {t : Nat}
    (ht : t = s.tlast) : Inv (acceptBurst p t s) := by
  subst ht
  rcases acceptBurst_cases p s.tlast s with ⟨-, e⟩ | ⟨hroom, e⟩ <;> rw [e]
  · exact { h with }
  · exact
      { h with
        idle_iff := by simp
        bursts_fit := by simpa [or_imp, forall_and] using ⟨h.bursts_fit, hp⟩
        arrivals_rise := by simpa [List.pairwise_append] using ⟨h.arrivals_rise, h.arrivals_past⟩
        arrivals_past := by simpa [or_imp, forall_and] using h.arrivals_past
        deadline := by simp
        no_deadline := by simp
        count := by
          have hcount := h.count
          rw [List.length_append, List.length_singleton]
          omega }

/-- A finalization empties the history and clears the deadline. -/
theorem inv_finalize {s : State} (h : Inv s) : Inv (finalize s) :=
  { h with
    idle_iff := by simp
    bursts_fit := by simp
    arrivals_rise := by simp
    arrivals_past := by simp
    deadline := by simp
    no_deadline := by simp
    count := by simp }

theorem inv_checkDeadline {s : State} (h : Inv s) : Inv (checkDeadline s) := by
  rcases checkDeadline_cases s with ⟨-, e⟩ | ⟨-, e⟩ <;> rw [e]
  · exact inv_finalize h
  · exact h

/-! ### The Framer -/

/-- A legal PREFIX is not empty (R13), so an empty window is not PREFIX. -/
theorem Inv.prefix_ne_nil {s : State} (h : Inv s) : [] ≠ s.cfg.prefixBytes := by
  obtain ⟨hprefix, -, -, -⟩ := legal_iff.1 h.legal
  exact (List.ne_nil_of_length_pos hprefix).symm

theorem inv_enterSearching {s : State} (h : Inv s) : Inv (enterSearching s) :=
  { h with
    no_payload := fun _ => rfl
    payload_fits := Nat.zero_le _
    window_fits := Nat.zero_le _
    window_differs := h.prefix_ne_nil
    no_window := fun _ => rfl }

theorem inv_enterNoCarrier {s : State} (h : Inv s) : Inv (enterNoCarrier s) :=
  { h with
    no_payload := fun _ => rfl
    payload_fits := Nat.zero_le _
    window_fits := Nat.zero_le _
    window_differs := h.prefix_ne_nil
    no_window := fun _ => rfl }

/-- Reading starts at the time of the step. -/
theorem inv_enterReading {s : State} (h : Inv s) {t : Nat} (ht : t = s.tlast) : Inv (enterReading t s) :=
  { h with
    no_payload := fun _ => rfl
    payload_fits := Nat.zero_le _
    window_fits := Nat.zero_le _
    window_differs := h.prefix_ne_nil
    no_window := fun _ => rfl
    last_byte_past := ht.le }

/-- A payload that fits, while Reading. -/
theorem inv_payload {s : State} (h : Inv s) (hfst : s.fst = .reading) {p : List Byte}
    (hp : p.length ≤ s.cfg.maxLen) : Inv { s with pbuf := p } :=
  { h with
    no_payload := fun hn => absurd hfst hn
    payload_fits := hp }

/-- Ending a burst hands over a payload that fits and searches again. -/
theorem inv_endBurst {s : State} (h : Inv s) {t : Nat} (ht : t = s.tlast) : Inv (endBurst t s) :=
  inv_enterSearching (inv_acceptBurst h h.payload_fits ht)

theorem inv_terminatorCheck {s : State} (h : Inv s) (hfst : s.fst = .reading) {t : Nat} (ht : t = s.tlast) :
    Inv (terminatorCheck t s) := by
  rcases terminatorCheck_cases t s with ⟨-, e⟩ | ⟨p, -, hpbuf, e⟩ <;> rw [e]
  · exact h
  · have hp : p.length ≤ s.cfg.maxLen := by
      have hfits := h.payload_fits
      rw [hpbuf, List.length_append] at hfits
      omega
    exact inv_endBurst (inv_payload h hfst hp) ht

/-- A byte slid into the window: the full window is not PREFIX, or Reading starts. -/
theorem inv_windowByte {s : State} (h : Inv s) (hnow : s.now = s.tlast) (hfst : s.fst = .searching) (b : Byte) :
    Inv (windowByte b s) := by
  rcases windowByte_cases b s with ⟨-, e⟩ | ⟨hne, e⟩ <;> rw [e]
  · exact { inv_enterReading h hnow with }
  · obtain ⟨hprefix, -, -, -⟩ := legal_iff.1 h.legal
    exact
      { h with
        window_fits := length_shiftWindow_le hprefix h.window_fits
        window_differs := hne
        no_window := fun hn => absurd hfst hn }

theorem inv_truncateBurst {s : State} (h : Inv s) (hnow : s.now = s.tlast) : Inv (truncateBurst s) :=
  inv_endBurst (s := { s with anom := { s.anom with truncated := true } }) { h with } hnow

/-- A byte appended below the maximum length still fits. -/
theorem inv_appendByte {s : State} (h : Inv s) (hnow : s.now = s.tlast) (hfst : s.fst = .reading)
    (hroom : s.pbuf.length ≠ s.cfg.maxLen) (b : Byte) : Inv (appendByte b s) := by
  have hfits : (bufAppend s.pbuf b).length ≤ s.cfg.maxLen := by
    have hle := h.payload_fits
    rw [bufAppend, List.length_append, List.length_singleton]
    omega
  have happended : Inv { s with pbuf := bufAppend s.pbuf b, lbt := s.now } :=
    { inv_payload h hfst hfits with last_byte_past := hnow.le }
  exact inv_terminatorCheck happended hfst hnow

theorem inv_checkInterByte {s : State} (h : Inv s) (hnow : s.now = s.tlast) : Inv (checkInterByte s) := by
  rcases checkInterByte_cases s with ⟨-, e⟩ | ⟨-, e⟩ <;> rw [e]
  · exact inv_endBurst h hnow
  · exact h

/-! ### The commands -/

theorem inv_carrierBody {s : State} (h : Inv s) (p : Bool) : Inv (carrierBody p s) := by
  rcases carrierBody_cases p s with ⟨-, -, e⟩ | ⟨-, -, e⟩ | ⟨-, e⟩ <;> rw [e]
  · exact inv_enterSearching h
  · exact inv_enterNoCarrier h
  · exact h

theorem inv_byteBody {s : State} (h : Inv s) (hnow : s.now = s.tlast) (b : Byte) : Inv (byteBody b s) := by
  rcases byteBody_cases b s with ⟨-, e⟩ | ⟨hfst, e⟩ | ⟨-, -, e⟩ | ⟨hfst, hroom, e⟩ <;> rw [e]
  · exact h
  · exact inv_windowByte h hnow hfst b
  · exact inv_truncateBurst h hnow
  · exact inv_appendByte h hnow hfst hroom b

theorem inv_tickBody {s : State} (h : Inv s) (hnow : s.now = s.tlast) : Inv (tickBody s) :=
  inv_checkDeadline (inv_checkInterByte h hnow)

theorem inv_fresetBody {s : State} (h : Inv s) : Inv (fresetBody s) := by
  rcases fresetBody_cases s with ⟨-, e⟩ | ⟨-, e⟩ <;> rw [e]
  · exact h
  · exact inv_enterNoCarrier h

/-- The effect of each command keeps the invariant, once TLAST holds the time of the step. -/
theorem inv_effect {s : State} (h : Inv s) (hnow : s.now = s.tlast) (i : Instr) : Inv (effect i s) := by
  cases i with
  | nop => exact h
  | carrier p => exact inv_carrierBody h p
  | byte b => exact inv_byteBody h hnow b
  | tick => exact inv_tickBody h hnow
  | freset => exact inv_fresetBody h

/-- A command that answers a next state, a time fault included, keeps the invariant. -/
theorem inv_exec_next {i : Instr} {s t : State} (h : Inv s) (hexec : exec i s = .next t) : Inv t := by
  rcases exec_next hexec with ⟨-, -, rfl⟩ | ⟨-, -, -, rfl⟩ | ⟨ha, rfl⟩
  · exact inv_raiseFault h _
  · exact inv_raiseFault h _
  · exact inv_effect (inv_beginStep h ha) rfl i

/-- Settles O53: a step is a hardware reset, the fault of an illegal word or a command, and each of them keeps the
invariant. -/
theorem stepKeepsTheInvariant : Obligations.StepKeepsTheInvariant := by
  intro s t h hstep
  rcases step_next hstep with ⟨rest, rfl, -⟩ | ⟨-, c, rest, -, ⟨_, -, rfl⟩ | ⟨i, -, hexec⟩⟩
  · exact inv_resetWith h.legal rest
  · exact inv_raiseFault (inv_takeCommand h c rest) _
  · exact inv_exec_next (inv_takeCommand h c rest) hexec

end Sys2Proof.Machine
end

section
/-! PROOFS. Who raises FLUSH (spec 10 R29, R32 (g)): the loss of the carrier only. -/

namespace Sys2Proof.Machine

/-- The step from `s` to `t` does not raise FLUSH, and clears it where it changes the history. -/
def RaisesNoFlush (s t : State) : Prop :=
  (t.hist = s.hist ∧ t.flush = s.flush) ∨ t.flush = false

theorem RaisesNoFlush.refl (s : State) : RaisesNoFlush s s := .inl ⟨rfl, rfl⟩

theorem RaisesNoFlush.trans {s t u : State} (h : RaisesNoFlush s t) (h' : RaisesNoFlush t u) :
    RaisesNoFlush s u := by
  rcases h' with ⟨hhist', hflush'⟩ | hclear'
  · rcases h with ⟨hhist, hflush⟩ | hclear
    · exact .inl ⟨hhist'.trans hhist, hflush'.trans hflush⟩
    · exact .inr (hflush'.trans hclear)
  · exact .inr hclear'

theorem raisesNoFlush_endBurst (t : Nat) (s : State) : RaisesNoFlush s (endBurst t s) := by
  rcases endBurst_cases t s with ⟨-, e⟩ | ⟨-, e⟩ <;> rw [e]
  · exact .inl ⟨rfl, rfl⟩
  · exact .inr rfl

theorem raisesNoFlush_terminatorCheck (t : Nat) (s : State) : RaisesNoFlush s (terminatorCheck t s) := by
  rcases terminatorCheck_cases t s with ⟨-, e⟩ | ⟨p, -, -, e⟩ <;> rw [e]
  · exact .refl s
  · exact raisesNoFlush_endBurst t { s with pbuf := p }

theorem raisesNoFlush_byteBody (b : Byte) (s : State) : RaisesNoFlush s (byteBody b s) := by
  rcases byteBody_cases b s with ⟨-, e⟩ | ⟨-, e⟩ | ⟨-, -, e⟩ | ⟨-, -, e⟩ <;> rw [e]
  · exact .refl s
  · rcases windowByte_cases b s with ⟨-, e'⟩ | ⟨-, e'⟩ <;> rw [e'] <;> exact .inl ⟨rfl, rfl⟩
  · exact raisesNoFlush_endBurst s.now { s with anom := { s.anom with truncated := true } }
  · exact raisesNoFlush_terminatorCheck s.now { s with pbuf := bufAppend s.pbuf b, lbt := s.now }

theorem raisesNoFlush_tickBody (s : State) : RaisesNoFlush s (tickBody s) := by
  have hframer : RaisesNoFlush s (checkInterByte s) := by
    rcases checkInterByte_cases s with ⟨-, e⟩ | ⟨-, e⟩ <;> rw [e]
    · exact raisesNoFlush_endBurst s.now s
    · exact .refl s
  have htransport : RaisesNoFlush (checkInterByte s) (checkDeadline (checkInterByte s)) := by
    rcases checkDeadline_cases (checkInterByte s) with ⟨-, e⟩ | ⟨-, e⟩ <;> rw [e]
    · exact .inr (finalize_flush _)
    · exact .refl _
  exact hframer.trans htransport

/-- The effect of a command loses the carrier of an active Framer (R74), or does not raise FLUSH. -/
theorem effect_loses_carrier_or_raisesNoFlush (i : Instr) (s : State) :
    (s.fst ≠ .noCarrier ∧ effect i s = enterNoCarrier s) ∨ RaisesNoFlush s (effect i s) := by
  cases i with
  | nop => exact .inr (.refl s)
  | carrier p =>
    rcases carrierBody_cases p s with ⟨-, -, e⟩ | ⟨-, hactive, e⟩ | ⟨-, e⟩ <;> rw [effect, e]
    · exact .inr (.inl ⟨rfl, rfl⟩)
    · exact .inl ⟨hactive, rfl⟩
    · exact .inr (.refl s)
  | byte b => exact .inr (raisesNoFlush_byteBody b s)
  | tick => exact .inr (raisesNoFlush_tickBody s)
  | freset =>
    rcases fresetBody_cases s with ⟨-, e⟩ | ⟨hactive, e⟩ <;> rw [effect, e]
    · exact .inr (.refl s)
    · exact .inl ⟨hactive, rfl⟩

/-- What a command that answers a next state does to FLUSH: it loses the carrier, with NoCarrier as its one event, or does
not raise FLUSH. -/
theorem exec_next_loses_carrier_or_raisesNoFlush {i : Instr} {s t : State} (h : exec i s = .next t) :
    (s.fst ≠ .noCarrier ∧ t = enterNoCarrier (beginStep s)) ∨ RaisesNoFlush s t := by
  rcases exec_next h with ⟨-, -, rfl⟩ | ⟨-, -, -, rfl⟩ | ⟨-, rfl⟩
  · exact .inr (.inl ⟨rfl, rfl⟩)
  · exact .inr (.inl ⟨rfl, rfl⟩)
  · exact effect_loses_carrier_or_raisesNoFlush i (beginStep s)

/-- Settles O43: the loss of the carrier leaves the history, and nothing else raises FLUSH. -/
theorem flushIsRaisedByCarrierLossOnly : Obligations.FlushIsRaisedByCarrierLossOnly := by
  intro i s t h
  rcases exec_next_loses_carrier_or_raisesNoFlush h with ⟨hactive, rfl⟩ | ⟨hhist, hflush⟩ | hclear
  · exact ⟨fun _ _ => ⟨hactive, rfl, rfl⟩, fun hchanged => absurd rfl hchanged⟩
  · exact ⟨fun h0 h1 => by simp [hflush, h0] at h1, fun hchanged => absurd hhist hchanged⟩
  · exact ⟨fun _ h1 => by simp [hclear] at h1, fun _ => hclear⟩

end Sys2Proof.Machine
end

section
/-! PROOFS. The outputs: `is_active` (spec 10 R21), the status word (10 R34), and the codes of events, states and faults
(10 R20, R25, 30 R63, R64, 60 R113). -/

namespace Sys2Proof.Machine

/-- Settles O49: by the three values of FST. -/
theorem isActiveIffSearchingOrReading : Obligations.IsActiveIffSearchingOrReading := by
  intro s
  unfold State.isActive
  cases s.fst <;> rfl

/-- Each field of the status word is read back at its place (R34); the count field holds the low two bits of the count. A
field is the lowest part of the word once the parts below it are dropped. -/
theorem status_fields (s : State) :
    s.status.extractLsb' 0 2 = s.fst.code
      ∧ s.status.extractLsb' 2 1 = BitVec.ofBool s.isActive
      ∧ s.status.extractLsb' 3 1 = s.tst.code
      ∧ s.status.extractLsb' 4 2 = BitVec.ofNat 2 s.hcnt
      ∧ s.status.extractLsb' 6 1 = BitVec.ofBool s.flush
      ∧ s.status.extractLsb' 7 1 = 0
      ∧ s.status.extractLsb' 8 2 = s.fault.code
      ∧ s.status.extractLsb' 10 6 = 0 := by
  unfold State.status
  refine ⟨?_, ?_, ?_, ?_, ?_, ?_, ?_, ?_⟩
  all_goals repeat rw [BitVec.extractLsb'_append_eq_of_le (by decide)]
  on_goal 8 => exact BitVec.extractLsb'_eq_self
  all_goals exact BitVec.extractLsb'_append_eq_right

/-- Settles O50: at reset every code is 0; in general each field is read back at its place, and a count of at most three
fits its two bits. -/
theorem statusWordFields : Obligations.StatusWordFields := by
  refine ⟨rfl, fun s hcount => ?_⟩
  obtain ⟨hfst, hactive, htst, hcnt, hflush, hzero, hfault, hreserved⟩ := status_fields s
  have hfits : (BitVec.ofNat 2 s.hcnt).toNat = s.hist.length :=
    Nat.mod_eq_of_lt (Nat.lt_succ_of_le hcount)
  exact ⟨hfst, hactive, htst, hcnt ▸ hfits, hflush, hzero, hfault, hreserved⟩

/-- Only Ready has the kind 0b11, so the other events carry no result (R63). -/
theorem okBit_result_of_kind_ne {e : Event} (h : e.kind ≠ 0b11) : e.okBit = 0 ∧ e.result = none := by
  cases e with
  | noCarrier => exact ⟨rfl, rfl⟩
  | searching => exact ⟨rfl, rfl⟩
  | reading => exact ⟨rfl, rfl⟩
  | ready r => exact absurd rfl h

/-- FST is coded as the kind of the event that reports it (R20, R64, R84). -/
theorem code_eq_kind_event (f : FramerState) : f.code = f.event.kind := by
  cases f <;> rfl

/-- Settles O51: the codes are those of the tables, and the two general clauses hold by the cases of the event and of
FST. -/
theorem eventAndStateCodes : Obligations.EventAndStateCodes :=
  ⟨rfl, rfl, rfl, fun _ => ⟨rfl, rfl⟩, fun _ => rfl, fun _ => rfl, fun _ h => okBit_result_of_kind_ne h,
    code_eq_kind_event, rfl, rfl, rfl, rfl, rfl, rfl⟩

end Sys2Proof.Machine
end

section
/-! PROOFS. The search for PREFIX (spec 40 R77): the window holds the last bytes of the stream since the entry into
Searching, so PREFIX is found at the byte that completes it, wherever it starts. -/

namespace Sys2Proof.Machine

/-- The last `n` bytes of a stream; all of it where it is shorter. -/
def lastBytes (n : Nat) (bs : List Byte) : List Byte := bs.drop (bs.length - n)

/-- PREFIX ends a stream exactly when it is the last bytes of the stream. -/
theorem lastBytes_eq_iff_suffix {p bs : List Byte} : lastBytes p.length bs = p ↔ p <:+ bs :=
  eq_comm.trans List.suffix_iff_eq_drop.symm

/-- Sliding the window (R77) keeps it the last bytes of the stream, for a non-empty PREFIX (R13). -/
theorem shiftWindow_lastBytes {c : Config} (hc : c.legal = true) (bs : List Byte) (b : Byte) :
    shiftWindow c (lastBytes c.prefixBytes.length bs) b = lastBytes c.prefixBytes.length (bs ++ [b]) := by
  obtain ⟨hprefix, -, -, -⟩ := legal_iff.1 hc
  unfold shiftWindow bufAppend prefixLen lastBytes
  generalize c.prefixBytes.length = n at hprefix ⊢
  rw [List.length_append, List.length_singleton, List.drop_append_of_le_length (by omega)]
  by_cases hfull : n ≤ bs.length
  · rw [if_pos (by rw [List.length_drop]; omega), List.drop_drop]
    congr 2
    omega
  · rw [if_neg (by rw [List.length_drop]; omega)]
    congr 2
    omega

/-- A block with the parameters `c` searches, and since the entry into Searching it has received the bytes `past`, without
PREFIX at their end. -/
structure Searches (c : Config) (past : List Byte) (s : State) : Prop where
  cfg : s.cfg = c
  legal : c.legal = true
  no_fault : s.fault = .none
  searching : s.fst = .searching
  no_payload : s.pbuf = []
  window : s.win = lastBytes c.prefixBytes.length past
  not_found : ¬ c.prefixBytes <:+ past

/-- One byte more, in the frame of a step: Reading starts when it completes PREFIX (R78), otherwise the search goes
on. -/
theorem windowByte_of_searches {c : Config} {past : List Byte} {s : State} (h : Searches c past s) (b : Byte)
    (n : Nat) :
    (c.prefixBytes <:+ past ++ [b]
        ∧ windowByte b (beginStep { s with now := n }) = enterReading n (beginStep { s with now := n }))
    ∨ (Searches c (past ++ [b]) (windowByte b (beginStep { s with now := n }))
        ∧ (windowByte b (beginStep { s with now := n })).hist = s.hist) := by
  have hslide : shiftWindow s.cfg s.win b = lastBytes c.prefixBytes.length (past ++ [b]) := by
    rw [h.cfg, h.window, shiftWindow_lastBytes h.legal]
  have hmatch : shiftWindow s.cfg s.win b = s.cfg.prefixBytes ↔ c.prefixBytes <:+ past ++ [b] := by
    rw [hslide, h.cfg, lastBytes_eq_iff_suffix]
  rcases windowByte_cases b (beginStep { s with now := n }) with ⟨hfound, e⟩ | ⟨hne, e⟩ <;> rw [e]
  · exact .inl ⟨hmatch.1 hfound, rfl⟩
  · exact .inr ⟨{ h with window := hslide, not_found := fun hp => hne (hmatch.2 hp) }, rfl⟩

/-- BYTE while Searching slides the window (R75). -/
theorem byteBody_of_searching {s : State} (h : s.fst = .searching) (b : Byte) : byteBody b s = windowByte b s := by
  simp only [byteBody, h]

/-- A byte at a legal time while Searching is taken, and slides the window (R70, R77). -/
theorem feed_cons_of_searches {c : Config} {past : List Byte} {s : State} (h : Searches c past s) {b : Byte} {n : Nat}
    (hpast : s.tlast ≤ n) (hrange : n ≤ 2 ^ c.timeW - 1 - c.holdOff) (l : List (Byte × Nat)) :
    feed ((b, n) :: l) s = feed l (windowByte b (beginStep { s with now := n })) := by
  have haccepts : Accepts { s with now := n } := ⟨h.no_fault, hpast, h.cfg ▸ hrange⟩
  have hsearching : (beginStep { s with now := n }).fst = .searching := h.searching
  rw [← byteBody_of_searching hsearching, feed, exec_of_accepts (.byte b) haccepts]
  rfl

/-- What a search that has received `past` does with the stream `l`, in which PREFIX is not complete before the last
byte. By induction on `l`: a byte that completes PREFIX is the last one, any other goes on with the search. -/
theorem feed_of_searches {c : Config} {l : List (Byte × Nat)} {past : List Byte} {s : State} (h : Searches c past s)
    (htimes : timesOk c s.tlast (l.map Prod.snd) = true)
    (hfirst : ∀ m < l.length, ¬ c.prefixBytes <:+ past ++ (l.map Prod.fst).take m) :
    ∃ t, feed l s = some t ∧ t.hist = s.hist ∧ t.pbuf = []
      ∧ (c.prefixBytes <:+ past ++ l.map Prod.fst →
          t.fst = .reading ∧ t.win = [] ∧ t.evout = [.reading] ∧ ∀ x ∈ l.getLast?, t.lbt = x.2)
      ∧ (¬ c.prefixBytes <:+ past ++ l.map Prod.fst →
          t.fst = .searching ∧ t.win = lastBytes c.prefixBytes.length (past ++ l.map Prod.fst)) := by
  induction l generalizing past s with
  | nil =>
    rw [List.map_nil, List.append_nil]
    exact ⟨s, rfl, rfl, h.no_payload, fun hp => absurd hp h.not_found, fun _ => ⟨h.searching, h.window⟩⟩
  | cons x l ih =>
    obtain ⟨b, n⟩ := x
    simp only [List.map_cons, timesOk, Bool.and_eq_true, decide_eq_true_eq] at htimes
    obtain ⟨⟨hpast, hrange⟩, htimes⟩ := htimes
    have hstream : past ++ ((b, n) :: l).map Prod.fst = past ++ [b] ++ l.map Prod.fst := by simp
    rw [feed_cons_of_searches h hpast hrange, hstream]
    rcases windowByte_of_searches h b n with ⟨hfound, e⟩ | ⟨hsearch, hhist⟩
    · have hlast : l = [] := by
        by_contra hne
        exact hfirst 1 (by simpa using List.length_pos_iff.2 hne) (by simpa using hfound)
      subst hlast
      rw [e, List.map_nil, List.append_nil]
      exact ⟨_, rfl, rfl, rfl, fun _ => ⟨rfl, rfl, rfl, by simp⟩, fun hn => absurd hfound hn⟩
    · have htlast := (keepsFrame_windowByte b (beginStep { s with now := n })).tlast
      obtain ⟨t, hfeed, hthist, hpbuf, hfound, hmissed⟩ :=
        ih hsearch (htlast ▸ htimes) fun m hm => by simpa using hfirst (m + 1) (Nat.succ_lt_succ hm)
      refine ⟨t, hfeed, hthist.trans hhist, hpbuf, fun hp => ?_, hmissed⟩
      have hne : l ≠ [] := by
        rintro rfl
        exact hsearch.not_found (by simpa using hp)
      rw [List.getLast?_cons_of_ne_nil hne]
      exact hfound hp

/-- Settles O20: an entry into Searching is a search that has received nothing yet. -/
theorem prefixIsFoundWhereverItStarts : Obligations.PrefixIsFoundWhereverItStarts := by
  intro s l hlegal hfault hfst hwin hpbuf htimes hfirst
  obtain ⟨hprefix, -, -, -⟩ := legal_iff.1 hlegal
  have hstart : Searches s.cfg [] s :=
    { cfg := rfl
      legal := hlegal
      no_fault := hfault
      searching := hfst
      no_payload := hpbuf
      window := hwin.trans List.drop_nil.symm
      not_found := fun hp => List.ne_nil_of_length_pos hprefix (List.suffix_nil.1 hp) }
  simpa [lastBytes] using feed_of_searches hstart htimes (by simpa using hfirst)

end Sys2Proof.Machine
end

section
/-! PROOFS. What a step does with a command at the head of the input (spec 20 R47, 30 R56, 40 R70). -/

namespace Sys2Proof.Machine

/-- A block without a fault acts on the first input, here a command. -/
theorem fetch_of_command {s : State} {c : Command} {rest : List HostInput} (hfault : s.fault = .none)
    (hinput : s.input = .command c :: rest) : fetch s = .command c rest := by
  unfold fetch
  rw [if_pos hfault, hinput]

/-- A legal command at the head of the input runs in the state that has taken it. -/
theorem step_of_command {s : State} {c : Command} {rest : List HostInput} {i : Instr} (hfault : s.fault = .none)
    (hinput : s.input = .command c :: rest) (hdecode : decode c.word = .instr i) :
    step s = exec i (takeCommand c rest s) := by
  simp only [step, fetch_of_command hfault hinput, hdecode]

/-- Settles O7: taking the command samples its time and drops it from the input. -/
theorem stepRunsTheDecodedCommand : Obligations.StepRunsTheDecodedCommand := by
  intro s w n rest i hfault hinput hdecode
  have htaken : takeCommand { word := w, now := n } rest s = { s with now := n, input := rest } := rfl
  rw [step_of_command hfault hinput hdecode, htaken]

end Sys2Proof.Machine
end

section
/-! PROOFS. The command encoding (spec 30 R57 to R62): the decoder reads an encoded command back, and the words it reads
as a command are the encoded commands and no others. -/

namespace Sys2Proof

/-! ### The two checks on the data field (R59) -/

/-- A command without an operand is read exactly where `d` is 0x00. -/
theorem decodeNoOperand_eq_instr {i j : Instr} {d : Byte} : decodeNoOperand i d = .instr j ↔ j = i ∧ d = 0 := by
  unfold decodeNoOperand
  constructor
  · intro h
    split at h
    case isTrue hd => exact ⟨(Decoded.instr.inj h).symm, hd⟩
    case isFalse => cases h
  · rintro ⟨rfl, rfl⟩
    rfl

/-- A byte whose bits 7 to 1 are 0 is its bit 0: the data field of a CARRIER. -/
theorem eq_data_carrier {d : Byte} (hd : d.extractLsb' 1 7 = 0) : d = (Instr.carrier (d.getLsbD 0)).data := by
  have hsplit : d = d.extractLsb' 1 7 ++ d.extractLsb' 0 1 := by
    rw [BitVec.extractLsb'_append_extractLsb'_eq_extractLsb' (by decide), BitVec.extractLsb'_eq_self]
  rw [hd] at hsplit
  generalize d.extractLsb' 0 1 = p at hsplit
  subst hsplit
  rcases BitVec.eq_zero_or_eq_one p with rfl | rfl <;> rfl

/-- CARRIER is read exactly where `d` is the data field of one. -/
theorem decodeCarrier_eq_instr {d : Byte} {j : Instr} :
    decodeCarrier d = .instr j ↔ ∃ p, j = .carrier p ∧ d = (Instr.carrier p).data := by
  unfold decodeCarrier
  constructor
  · intro h
    split at h
    case isTrue hd => exact ⟨_, (Decoded.instr.inj h).symm, eq_data_carrier hd⟩
    case isFalse => cases h
  · rintro ⟨p, rfl, rfl⟩
    cases p <;> rfl

/-! ### The two directions of the round trip -/

/-- The decoder reads the fields of an encoded command, opcode by opcode. -/
@[simp] theorem decode_encode (i : Instr) : decode (encode i) = .instr i := by
  unfold decode
  rw [zField_encode, opField_encode, dField_encode, if_neg (not_not.2 rfl)]
  cases i with
  | nop => rfl
  | carrier p => exact decodeCarrier_eq_instr.2 ⟨p, rfl, rfl⟩
  | byte b => rfl
  | tick => rfl
  | freset => rfl

/-- A word with the fields of a command is the command's word. -/
theorem encode_eq_of_fields {w : CmdWord} {i : Instr} (hz : zField w = 0) (hop : opField w = i.opcode)
    (hd : dField w = i.data) : encode i = w :=
  word_ext ((zField_encode i).trans hz.symm) ((opField_encode i).trans hop.symm) ((dField_encode i).trans hd.symm)

/-- What is read in a word with the opcode of a command without an operand. -/
theorem encode_eq_of_decodeNoOperand {w : CmdWord} {i j : Instr} (h : decodeNoOperand i (dField w) = .instr j)
    (hz : zField w = 0) (hop : opField w = i.opcode) (hi : i.data = 0) : encode j = w := by
  obtain ⟨rfl, hd⟩ := decodeNoOperand_eq_instr.1 h
  exact encode_eq_of_fields hz hop (hd.trans hi.symm)

/-- The words read as a command are the encoded commands (R60, R67). -/
theorem decode_eq_instr {w : CmdWord} {i : Instr} : decode w = .instr i ↔ encode i = w := by
  constructor
  · intro h
    rcases decode_cases w with ⟨-, e⟩ | ⟨hz, hop, e⟩ | ⟨hz, hop, e⟩ | ⟨hz, hop, e⟩ | ⟨hz, hop, e⟩ | ⟨hz, hop, e⟩ |
      ⟨-, -, e⟩ <;> rw [e] at h
    · cases h
    · exact encode_eq_of_decodeNoOperand h hz hop rfl
    · obtain ⟨p, rfl, hd⟩ := decodeCarrier_eq_instr.1 h
      exact encode_eq_of_fields hz hop hd
    · cases h
      exact encode_eq_of_fields hz hop rfl
    · exact encode_eq_of_decodeNoOperand h hz hop rfl
    · exact encode_eq_of_decodeNoOperand h hz hop rfl
    · cases h
  · rintro rfl
    exact decode_encode i

/-- A word that encodes no command is illegal. -/
theorem decode_illegal {w : CmdWord} (h : ∀ i, encode i ≠ w) : ∃ why, decode w = .illegal why := by
  cases hw : decode w with
  | instr i => exact absurd (decode_eq_instr.1 hw) (h i)
  | illegal why => exact ⟨why, rfl⟩

/-- Settles O1: well-formedness asks nothing of a command that its type does not give (R59). -/
theorem decodeOfEncodeIsTheCommand : Obligations.DecodeOfEncodeIsTheCommand :=
  fun i _ => decode_encode i

/-- Settles O2: by the three fields of the word. -/
theorem encodeOfDecodedIsTheWord : Obligations.EncodeOfDecodedIsTheWord :=
  fun _ _ => decode_eq_instr.1

/-! ### The list of the legal words (R62) -/

/-- The word of BYTE b: `z` and `op` are 0x02 (R57, R58). -/
theorem encode_byte (b : Byte) : encode (.byte b) = (0x02 : BitVec 8) ++ b :=
  congrArg (fun high : BitVec 8 => high ++ b) (by decide : ((0 : BitVec 5) ++ (0b010 : BitVec 3) : BitVec 8) = 0x02)

/-- The words of BYTE lie between 0x0200 and 0x02FF. -/
theorem encode_byte_bounds (b : Byte) : 0x0200 ≤ encode (.byte b) ∧ encode (.byte b) ≤ 0x02FF := by
  have hvalue : (encode (.byte b)).toNat = 0x0200 + b.toNat := by
    rw [encode_byte, BitVec.toNat_append, ← Nat.shiftLeft_add_eq_or_of_lt b.isLt]
    rfl
  have hlt := b.isLt
  rw [BitVec.le_def, BitVec.le_def, hvalue]
  exact ⟨Nat.le_add_right _ _, by change 0x0200 + b.toNat ≤ 0x02FF; omega⟩

/-- Settles O3: the listed words are the encoded commands, so any other word is illegal. -/
theorem legalCommandWordsAreComplete : Obligations.LegalCommandWordsAreComplete := by
  refine ⟨decode_encode .nop, decode_encode (.carrier false), decode_encode (.carrier true),
    fun b => encode_byte b ▸ decode_encode (.byte b), decode_encode .tick, decode_encode .freset, ?_⟩
  intro w hnop hoff hon hbyte htick hfreset
  refine decode_illegal fun i hi => ?_
  subst hi
  cases i with
  | nop => exact hnop rfl
  | carrier p =>
    cases p with
    | false => exact hoff rfl
    | true => exact hon rfl
  | byte b => exact hbyte (encode_byte_bounds b)
  | tick => exact htick rfl
  | freset => exact hfreset rfl

/-- Settles O4: each sample word is the encoded command. -/
theorem sampleWordsDecode : Obligations.SampleWordsDecode :=
  ⟨decode_encode .nop, decode_encode (.carrier true), decode_encode (.byte 0x41), decode_encode .tick,
    decode_encode .freset⟩

end Sys2Proof
end

section
/-! PROOFS. An illegal word at the head of the input (spec 30 R60, R61, 60 R115). -/

namespace Sys2Proof.Machine

/-- The opcodes in use are 0b000 to 0b100 (R58). -/
theorem opcode_le (i : Instr) : i.opcode ≤ 0b100 := by
  cases i <;> simp [Instr.opcode]

/-- The data field is 0x00 but for CARRIER and BYTE (R59). -/
theorem data_eq_zero {i : Instr} (h : i.opcode = 0b000 ∨ i.opcode = 0b011 ∨ i.opcode = 0b100) : i.data = 0 := by
  cases i with
  | nop => rfl
  | carrier p => simp [Instr.opcode] at h
  | byte b => simp [Instr.opcode] at h
  | tick => rfl
  | freset => rfl

/-- Bits 7 to 1 of the data field are 0 for CARRIER (R59). -/
theorem extract_encode_of_opcode_carrier {i : Instr} (h : i.opcode = 0b001) : (encode i).extractLsb' 1 7 = 0 := by
  cases i with
  | nop => simp [Instr.opcode] at h
  | carrier p => cases p <;> rfl
  | byte b => simp [Instr.opcode] at h
  | tick => simp [Instr.opcode] at h
  | freset => simp [Instr.opcode] at h

/-- An illegal word at the head of the input faults in the state that has taken it (R115). -/
theorem step_of_illegal {s : State} {c : Command} {rest : List HostInput} (hfault : s.fault = .none)
    (hinput : s.input = .command c :: rest) (hword : ∀ i, encode i ≠ c.word) :
    step s = .next (raiseFault .illegalCommand (takeCommand c rest s)) := by
  obtain ⟨why, hdecode⟩ := decode_illegal hword
  have hnofault : ¬ (takeCommand c rest s).fault ≠ .none := not_not.2 hfault
  simp only [step, fetch_of_command hfault hinput, hdecode, illegalCommand, if_neg hnofault]

/-- Settles O5: no command's word has a set must-be-zero bit or a reserved opcode. -/
theorem illegalWordTakesTheFault : Obligations.IllegalWordTakesTheFault := by
  intro s w n rest hfault hinput hbad
  refine step_of_illegal hfault hinput ?_
  rintro i rfl
  have hop : (encode i).extractLsb' 8 3 = i.opcode := opField_encode i
  have hdata : (encode i).extractLsb' 0 8 = i.data := dField_encode i
  rw [hop, hdata] at hbad
  rcases hbad with hz | hreserved | ⟨hnoOperand, hd⟩ | ⟨hcarrier, hd⟩
  · exact hz (zField_encode i)
  · exact absurd (opcode_le i) (BitVec.not_le.2 hreserved)
  · exact hd (data_eq_zero hnoOperand)
  · exact hd (extract_encode_of_opcode_carrier hcarrier)

end Sys2Proof.Machine
end

section
/-! PROOFS. The pseudo-commands of the assembler (spec 30 R66). -/

namespace Sys2Proof.Machine

/-- One line assembles to the words of its expansion. -/
theorem assemble_singleton (l : AsmLine) :
    assemble [l] = l.expand.map fun c => .command { word := encode c.2, now := c.1 } :=
  List.flatMap_singleton _ _

/-- The `k`-th command of BYTES at `t`, `t + 1`, ... is the `k`-th byte at `t + k`. -/
theorem getElem?_byteSequence (t : Nat) (bs : List Byte) (k : Nat) :
    (byteSequence t bs)[k]? = bs[k]?.map fun b => (t + k, Instr.byte b) := by
  induction bs generalizing t k with
  | nil => rfl
  | cons b bs ih =>
    cases k with
    | zero => rfl
    | succ k =>
      have hshift : t + 1 + k = t + (k + 1) := by omega
      rw [byteSequence, List.getElem?_cons_succ, List.getElem?_cons_succ, ih, hshift]

/-- BYTES stands for one command for each byte. -/
theorem length_byteSequence (t : Nat) (bs : List Byte) : (byteSequence t bs).length = bs.length := by
  induction bs generalizing t with
  | nil => rfl
  | cons b bs ih => rw [byteSequence, List.length_cons, List.length_cons, ih]

/-- Settles O6: by the expansion of each line. -/
theorem pseudoCommandsAreTheirExpansion : Obligations.PseudoCommandsAreTheirExpansion := by
  refine ⟨fun _ => rfl, fun _ => rfl, fun n k bs b hb => ⟨?_, ?_⟩, fun n bs => ⟨?_, ?_⟩⟩
  · simp [assemble_singleton, AsmLine.expand, hb, encode_byte]
  · simp [assemble_singleton, AsmLine.expand, getElem?_byteSequence, hb, encode_byte]
  · simp [assemble_singleton, AsmLine.expand]
  · simp [assemble_singleton, AsmLine.expand, length_byteSequence]

end Sys2Proof.Machine
end

section
/-! PROOFS. The events of a step (spec 30 R63, 40 R84, 60 R116 (c)): the Framer reports its change of state, the Transport
its finalization at a TICK. -/

namespace Sys2Proof.Machine

/-! ### The Framer's events (R84) -/

/-- From `s` to `t` the Framer emits the event of its new state where FST changes, and nothing where it does not. -/
def ReportsFst (s t : State) : Prop :=
  (t.fst = s.fst ∧ t.evout = s.evout) ∨ (t.fst ≠ s.fst ∧ t.evout = s.evout ++ [t.fst.event])

theorem ReportsFst.refl (s : State) : ReportsFst s s := .inl ⟨rfl, rfl⟩

theorem reportsFst_enterSearching {s : State} (h : s.fst ≠ .searching) : ReportsFst s (enterSearching s) :=
  .inr ⟨h.symm, rfl⟩

theorem reportsFst_enterNoCarrier {s : State} (h : s.fst ≠ .noCarrier) : ReportsFst s (enterNoCarrier s) :=
  .inr ⟨h.symm, rfl⟩

/-- Ending a burst is reported as Searching, whether the burst is kept or not (R82). -/
@[simp] theorem endBurst_evout (t : Nat) (s : State) : (endBurst t s).evout = s.evout ++ [.searching] := by
  rcases endBurst_cases t s with ⟨-, e⟩ | ⟨-, e⟩ <;> rw [e]

theorem reportsFst_endBurst (t : Nat) {s : State} (h : s.fst = .reading) : ReportsFst s (endBurst t s) :=
  .inr ⟨by simp [h, endBurst], endBurst_evout t s⟩

theorem reportsFst_terminatorCheck (t : Nat) {s : State} (h : s.fst = .reading) :
    ReportsFst s (terminatorCheck t s) := by
  rcases terminatorCheck_cases t s with ⟨-, e⟩ | ⟨p, -, -, e⟩ <;> rw [e]
  · exact .refl s
  · exact reportsFst_endBurst (s := { s with pbuf := p }) t h

theorem reportsFst_windowByte (b : Byte) {s : State} (h : s.fst = .searching) : ReportsFst s (windowByte b s) := by
  rcases windowByte_cases b s with ⟨-, e⟩ | ⟨-, e⟩ <;> rw [e]
  · exact .inr ⟨by simp [h], rfl⟩
  · exact .inl ⟨rfl, rfl⟩

theorem reportsFst_carrierBody (p : Bool) (s : State) : ReportsFst s (carrierBody p s) := by
  rcases carrierBody_cases p s with ⟨-, hfst, e⟩ | ⟨-, hactive, e⟩ | ⟨-, e⟩ <;> rw [e]
  · exact reportsFst_enterSearching (by simp [hfst])
  · exact reportsFst_enterNoCarrier hactive
  · exact .refl s

theorem reportsFst_byteBody (b : Byte) (s : State) : ReportsFst s (byteBody b s) := by
  rcases byteBody_cases b s with ⟨-, e⟩ | ⟨hfst, e⟩ | ⟨hfst, -, e⟩ | ⟨hfst, -, e⟩ <;> rw [e]
  · exact .refl s
  · exact reportsFst_windowByte b hfst
  · exact reportsFst_endBurst (s := { s with anom := { s.anom with truncated := true } }) s.now hfst
  · exact reportsFst_terminatorCheck (s := { s with pbuf := bufAppend s.pbuf b, lbt := s.now }) s.now hfst

theorem reportsFst_fresetBody (s : State) : ReportsFst s (fresetBody s) := by
  rcases fresetBody_cases s with ⟨-, e⟩ | ⟨hactive, e⟩ <;> rw [e]
  · exact .refl s
  · exact reportsFst_enterNoCarrier hactive

/-- The effect of a command other than TICK: the Transport reports nothing. -/
theorem reportsFst_effect {i : Instr} (hi : i ≠ .tick) (s : State) : ReportsFst s (effect i s) := by
  cases i with
  | nop => exact .refl s
  | carrier p => exact reportsFst_carrierBody p s
  | byte b => exact reportsFst_byteBody b s
  | tick => exact absurd rfl hi
  | freset => exact reportsFst_fresetBody s

/-! ### The events of TICK (R90) -/

/-- The inter-byte check emits nothing, or Searching for the burst that it ends (R91). -/
theorem checkInterByte_evout (s : State) :
    (checkInterByte s).evout = s.evout ∨ (checkInterByte s).evout = s.evout ++ [.searching] := by
  rcases checkInterByte_cases s with ⟨-, e⟩ | ⟨-, e⟩ <;> rw [e]
  · exact .inr (endBurst_evout s.now s)
  · exact .inl rfl

/-- The deadline check emits nothing, or Ready for the cycle that is due (R92, R100). -/
theorem checkDeadline_evout (s : State) :
    (checkDeadline s).evout = s.evout ∨ ∃ r, (checkDeadline s).evout = s.evout ++ [.ready r] := by
  rcases checkDeadline_cases s with ⟨-, e⟩ | ⟨-, e⟩ <;> rw [e]
  · exact .inr ⟨_, finalize_evout s⟩
  · exact .inl rfl

/-! ### The events of a step -/

/-- A command other than TICK that answers a next state emits at most one event, the Framer's. -/
theorem exec_evout_of_ne_tick {i : Instr} {s t : State} (hi : i ≠ .tick) (h : exec i s = .next t) :
    t.evout = [] ∨ ∃ f : FramerState, t.evout = [f.event] := by
  rcases exec_next h with ⟨-, -, rfl⟩ | ⟨-, -, -, rfl⟩ | ⟨-, rfl⟩
  · exact .inl rfl
  · exact .inl rfl
  · rcases reportsFst_effect hi (beginStep s) with ⟨-, e⟩ | ⟨-, e⟩
    · exact .inl e
    · exact .inr ⟨_, e⟩

/-- A TICK that answers a next state emits Searching or not, and then Ready or not. -/
theorem exec_tick_evout {s t : State} (h : exec .tick s = .next t) :
    ∃ framer transport : List Event, t.evout = framer ++ transport
      ∧ (framer = [] ∨ framer = [.searching]) ∧ (transport = [] ∨ ∃ r, transport = [.ready r]) := by
  rcases exec_next h with ⟨-, -, rfl⟩ | ⟨-, -, -, rfl⟩ | ⟨-, rfl⟩
  · exact ⟨[], [], rfl, .inl rfl, .inl rfl⟩
  · exact ⟨[], [], rfl, .inl rfl, .inl rfl⟩
  · have hframer := checkInterByte_evout (beginStep s)
    refine ⟨(checkInterByte (beginStep s)).evout, ?_⟩
    rcases checkDeadline_evout (checkInterByte (beginStep s)) with e | ⟨r, e⟩
    · exact ⟨[], e.trans (List.append_nil _).symm, hframer, .inl rfl⟩
    · exact ⟨[.ready r], e, hframer, .inr ⟨r, rfl⟩⟩

/-- The Framer has no Ready among its events (R16). -/
theorem event_ne_ready (f : FramerState) (r : DecodeResult) : f.event ≠ .ready r := by
  cases f <;> simp [FramerState.event]

/-- Settles O41: TICK by the order of its two checks, any other command by its one Framer event. -/
theorem eventsOfAStepAreInOrder : Obligations.EventsOfAStepAreInOrder := by
  intro i s t h
  by_cases hi : i = .tick
  · subst hi
    obtain ⟨_, _, e, rfl | rfl, rfl | ⟨r, rfl⟩⟩ := exec_tick_evout h <;> simp [e]
  · rcases exec_evout_of_ne_tick hi h with e | ⟨f, e⟩ <;> rw [e]
    · exact ⟨.inl rfl, fun _ _ => List.not_mem_nil⟩
    · refine ⟨?_, fun _ r hr => event_ne_ready f r (List.mem_singleton.1 hr).symm⟩
      cases f <;> simp [FramerState.event]

end Sys2Proof.Machine
end

section
/-! PROOFS. NOP, CARRIER and FRESET (spec 40 R71, R72, R83, R89): the level or the command against FST. -/

namespace Sys2Proof.Machine

/-! ### The effects of CARRIER and FRESET, case by case -/

/-- CARRIER 1 from NoCarrier (R72, R73). -/
theorem carrierBody_true_of_noCarrier {s : State} (h : s.fst = .noCarrier) : carrierBody true s = enterSearching s := by
  simp only [carrierBody, h]

/-- CARRIER 0 from an active state (R72, R74). -/
theorem carrierBody_false_of_active {s : State} (h : s.fst ≠ .noCarrier) : carrierBody false s = enterNoCarrier s := by
  rcases carrierBody_cases false s with ⟨hp, -, -⟩ | ⟨-, -, e⟩ | ⟨hagrees, -⟩
  · exact absurd hp Bool.false_ne_true
  · exact e
  · exact absurd (hagrees.2 h) Bool.false_ne_true

/-- A level that agrees with FST has no effect (R72). -/
theorem carrierBody_of_agrees {p : Bool} {s : State} (h : p = true ↔ s.fst ≠ .noCarrier) : carrierBody p s = s := by
  rcases carrierBody_cases p s with ⟨hp, hfst, -⟩ | ⟨hp, hfst, -⟩ | ⟨-, e⟩
  · exact absurd hfst (h.1 hp)
  · exact absurd (hp.symm.trans (h.2 hfst)) Bool.false_ne_true
  · exact e

/-- FRESET in NoCarrier (R83). -/
theorem fresetBody_of_noCarrier {s : State} (h : s.fst = .noCarrier) : fresetBody s = s := by
  simp only [fresetBody, h]

/-- FRESET in an active state (R83). -/
theorem fresetBody_of_active {s : State} (h : s.fst ≠ .noCarrier) : fresetBody s = enterNoCarrier s := by
  rcases fresetBody_cases s with ⟨hfst, -⟩ | ⟨-, e⟩
  · exact absurd hfst h
  · exact e

/-! ### The two checks of TICK (R90 to R92) -/

/-- No burst in progress has timed out: the inter-byte check has no effect (R91). -/
theorem checkInterByte_of_not_timedOut {s : State} (h : ¬ TimedOut s) : checkInterByte s = s := by
  rcases checkInterByte_cases s with ⟨htimeout, -⟩ | ⟨-, e⟩
  · exact absurd htimeout h
  · exact e

/-- The cycle is due: the deadline check finalizes it (R92). -/
theorem checkDeadline_of_due {s : State} (h : Due s) : checkDeadline s = finalize s := by
  rcases checkDeadline_cases s with ⟨-, e⟩ | ⟨hnotDue, -⟩
  · exact e
  · exact absurd h hnotDue

/-- The cycle is not due: the deadline check has no effect (R92). -/
theorem checkDeadline_of_not_due {s : State} (h : ¬ Due s) : checkDeadline s = s := by
  rcases checkDeadline_cases s with ⟨hdue, -⟩ | ⟨-, e⟩
  · exact absurd hdue h
  · exact e

/-- TICK with no timeout and the cycle due finalizes (R90 to R92). -/
theorem exec_tick_of_due {s : State} (ha : Accepts s) (htimeout : ¬ TimedOut s) (hdue : Due s) :
    exec .tick s = .next (finalize (beginStep s)) := by
  have hframer : checkInterByte (beginStep s) = beginStep s := checkInterByte_of_not_timedOut htimeout
  have htransport : checkDeadline (beginStep s) = finalize (beginStep s) := checkDeadline_of_due hdue
  rw [exec_of_accepts .tick ha, effect, tickBody_eq, hframer, htransport]

/-! ### The statements -/

/-- Settles O14: NOP has the empty effect, so what is left is the start of the step. -/
theorem nopOnlyAdvancesTime : Obligations.NopOnlyAdvancesTime :=
  ⟨decode_encode .nop, fun _ ha => exec_of_accepts .nop ha⟩

/-- Settles O15: the level is above FST, below it, or agrees with it. -/
theorem carrierFollowsTheLevel : Obligations.CarrierFollowsTheLevel := by
  refine ⟨decode_encode (.carrier false), decode_encode (.carrier true), fun p s ha => ?_⟩
  rw [exec_of_accepts (.carrier p) ha, effect]
  refine ⟨?_, ?_, ?_⟩
  · rintro rfl hfst
    rw [carrierBody_true_of_noCarrier (s := beginStep s) hfst]
    rfl
  · rintro rfl hfst
    rw [carrierBody_false_of_active (s := beginStep s) hfst]
    rfl
  · intro hagrees
    rw [carrierBody_of_agrees (s := beginStep s) hagrees]
    rfl

/-- Settles O16: by FST; the carrier loss sets FLUSH and keeps the history, so a later TICK finds the cycle due. -/
theorem fresetIsTheCarrierLossTransition : Obligations.FresetIsTheCarrierLossTransition := by
  refine ⟨decode_encode .freset, fun s ha => ?_⟩
  rw [exec_of_accepts .freset ha, effect]
  refine ⟨fun hfst => ?_, fun hactive => ?_⟩
  · rw [fresetBody_of_noCarrier (s := beginStep s) hfst]
    rfl
  · rw [fresetBody_of_active (s := beginStep s) hactive]
    refine ⟨_, rfl, rfl, fun n hheld hpast hrange => ?_⟩
    have haccepts : Accepts { enterNoCarrier (beginStep s) with now := n } := ⟨ha.1, hpast, hrange⟩
    have hidle : ¬ TimedOut { enterNoCarrier (beginStep s) with now := n } := by simp
    have hdue : Due { enterNoCarrier (beginStep s) with now := n } := ⟨List.length_pos_iff.2 hheld, .inl rfl⟩
    exact ⟨_, exec_tick_of_due haccepts hidle hdue, rfl, rfl⟩

/-- Settles O17: an active Framer loses the carrier; in NoCarrier nothing changes, and there is no payload. -/
theorem carrierLossAlwaysReachesNoCarrier : Obligations.CarrierLossAlwaysReachesNoCarrier := by
  refine ⟨fun s => by simp [isActiveIffSearchingOrReading s], fun s ha hpayload => ?_⟩
  refine ⟨_, exec_of_accepts (.carrier false) ha, ?_⟩
  rw [effect]
  by_cases hfst : s.fst = .noCarrier
  · have hplen : (beginStep s).plen = 0 := congrArg List.length (hpayload (by simp [hfst]))
    rw [carrierBody_of_agrees (by simp [hfst])]
    exact ⟨hfst, hplen, rfl⟩
  · rw [carrierBody_false_of_active (s := beginStep s) hfst]
    exact ⟨rfl, rfl, rfl⟩

end Sys2Proof.Machine
end

section
/-! PROOFS. BYTE (spec 40 R75 to R82): the window of PREFIX while Searching, the payload and the two ends of a burst while
Reading. -/

namespace Sys2Proof.Machine

/-! ### BYTE without carrier and while Searching -/

/-- BYTE without carrier has no effect (R76). -/
theorem byteBody_of_noCarrier {s : State} (h : s.fst = .noCarrier) (b : Byte) : byteBody b s = s := by
  simp only [byteBody, h]

/-- Settles O18: what is left is the start of the step. -/
theorem byteIgnoredWithoutCarrier : Obligations.ByteIgnoredWithoutCarrier := by
  intro b s ha hfst
  rw [exec_of_accepts (.byte b) ha, effect, byteBody_of_noCarrier (s := beginStep s) hfst]
  rfl

/-- The slid window in the words of the claims (R77). -/
theorem shiftWindow_eq (c : Config) (w : List Byte) (b : Byte) :
    shiftWindow c w b = (if w.length = c.prefixBytes.length then w.tail else w) ++ [b] := by
  simp only [shiftWindow, bufAppend, prefixLen, List.drop_one]

/-- Settles O19: the slid window is PREFIX or is not. -/
theorem byteInSearchingSlidesTheWindow : Obligations.ByteInSearchingSlidesTheWindow := by
  intro b s w ha hfst hw
  have hslide : shiftWindow (beginStep s).cfg (beginStep s).win b = w := (shiftWindow_eq _ _ _).trans hw.symm
  rw [exec_of_accepts (.byte b) ha, effect, byteBody_of_searching (s := beginStep s) hfst]
  rcases windowByte_cases b (beginStep s) with ⟨hmatch, e⟩ | ⟨hdiffers, e⟩ <;> rw [e]
  · exact ⟨fun _ => rfl, fun hne => absurd (hslide.symm.trans hmatch) hne⟩
  · refine ⟨fun hmatch => absurd (hslide.trans hmatch) hdiffers, fun _ => ?_⟩
    rw [hslide]
    rfl

/-! ### The end of a burst -/

/-- The state of a step that ends a burst with the payload `p` (R82): `lbt` and `truncated` are LBT and TRUNCATED, which
the step has set before. -/
def endedBurst (p : List Byte) (lbt : Nat) (truncated : Bool) (s : State) : State :=
  endBurst s.now { beginStep s with pbuf := p, lbt := lbt, anom := { truncated := truncated, overcount := false } }

/-- With room in the history the payload takes the next slot and the deadline restarts (R93). -/
theorem endedBurst_of_room {s : State} (h : s.hist.length ≠ 3) (p : List Byte) (lbt : Nat) (truncated : Bool) :
    endedBurst p lbt truncated s =
      { s with
        fst := .searching
        win := []
        pbuf := []
        lbt := lbt
        hist := s.hist ++ [{ bytes := p, arrival := s.now }]
        dl := s.now + s.cfg.holdOff
        flush := false
        tst := .assembling
        tlast := s.now
        evout := [.searching]
        anom := { truncated := truncated, overcount := false }
        decReq := none } := by
  unfold endedBurst
  rcases endBurst_cases s.now
      { beginStep s with pbuf := p, lbt := lbt, anom := { truncated := truncated, overcount := false } } with
    ⟨hfull, -⟩ | ⟨-, e⟩
  · exact absurd hfull h
  · rw [e]
    rfl

/-- With three bursts held the payload is ignored with OVERCOUNT (R94). -/
theorem endedBurst_of_full {s : State} (h : s.hist.length = 3) (p : List Byte) (lbt : Nat) (truncated : Bool) :
    endedBurst p lbt truncated s =
      { s with
        fst := .searching
        win := []
        pbuf := []
        lbt := lbt
        tlast := s.now
        evout := [.searching]
        anom := { truncated := truncated, overcount := true }
        decReq := none } := by
  unfold endedBurst
  rcases endBurst_cases s.now
      { beginStep s with pbuf := p, lbt := lbt, anom := { truncated := truncated, overcount := false } } with
    ⟨-, e⟩ | ⟨hroom, -⟩
  · rw [e]
    rfl
  · exact absurd h hroom

/-! ### BYTE while Reading -/

/-- The byte beyond a full payload ends the burst with TRUNCATED, and is dropped (R79). -/
theorem byteBody_of_full {s : State} (hfst : s.fst = .reading) (hfull : s.pbuf.length = s.cfg.maxLen) (b : Byte) :
    byteBody b (beginStep s) = endedBurst s.pbuf s.lbt true s := by
  rcases byteBody_cases b (beginStep s) with ⟨h, -⟩ | ⟨h, -⟩ | ⟨-, -, e⟩ | ⟨-, hne, -⟩
  · cases hfst.symm.trans h
  · cases hfst.symm.trans h
  · exact e
  · exact absurd hfull hne

/-- The state of a step that has appended the byte `b` to the payload (R80), before its terminator check. -/
def appendedByte (b : Byte) (s : State) : State := { beginStep s with pbuf := s.pbuf ++ [b], lbt := s.now }

/-- A byte below the maximum length is appended before the terminator check (R80). -/
theorem byteBody_of_below {s : State} (hfst : s.fst = .reading) (hbelow : s.pbuf.length ≠ s.cfg.maxLen) (b : Byte) :
    byteBody b (beginStep s) = terminatorCheck s.now (appendedByte b s) := by
  rcases byteBody_cases b (beginStep s) with ⟨h, -⟩ | ⟨h, -⟩ | ⟨-, hfull, -⟩ | ⟨-, -, e⟩
  · cases hfst.symm.trans h
  · cases hfst.symm.trans h
  · exact absurd hfull hbelow
  · exact e

/-- The terminator check on a payload that ends with TERM (R81). -/
theorem terminatorCheck_of_tail {s : State} {p : List Byte} (hterm : s.cfg.termBytes ≠ [])
    (hpbuf : s.pbuf = p ++ s.cfg.termBytes) (t : Nat) : terminatorCheck t s = endBurst t { s with pbuf := p } := by
  rcases terminatorCheck_cases t s with ⟨hnone, -⟩ | ⟨q, -, hq, e⟩
  · exact absurd ⟨hterm, p, hpbuf.symm⟩ hnone
  · rw [e, List.append_cancel_right (hq.symm.trans hpbuf)]

/-- The terminator check on a payload that does not end with TERM, or without TERM (R81). -/
theorem terminatorCheck_of_no_tail {s : State} (h : ¬ (s.cfg.termBytes ≠ [] ∧ s.cfg.termBytes <:+ s.pbuf)) (t : Nat) :
    terminatorCheck t s = s := by
  rcases terminatorCheck_cases t s with ⟨-, e⟩ | ⟨p, hterm, hp, -⟩
  · exact e
  · exact absurd ⟨hterm, p, hp.symm⟩ h

/-- A byte that completes TERM ends the burst (R80, R81). -/
theorem exec_byte_of_terminator {s : State} {p : List Byte} {b : Byte} (ha : Accepts s) (hfst : s.fst = .reading)
    (hbelow : s.pbuf.length < s.cfg.maxLen) (hterm : s.cfg.termBytes ≠ [])
    (htail : s.pbuf ++ [b] = p ++ s.cfg.termBytes) : exec (.byte b) s = .next (endedBurst p s.now false s) := by
  rw [exec_of_accepts (.byte b) ha, effect, byteBody_of_below hfst hbelow.ne,
    terminatorCheck_of_tail (s := appendedByte b s) hterm htail]
  rfl

/-- Settles O21: a full payload is handed over as it is. -/
theorem byteBeyondMaxLenTruncates : Obligations.ByteBeyondMaxLenTruncates := by
  intro b s ha hfst hfull
  rw [exec_of_accepts (.byte b) ha, effect, byteBody_of_full hfst hfull]
  exact ⟨fun hroom => congrArg Host.Outcome.next (endedBurst_of_room hroom _ _ _),
    fun hheld => congrArg Host.Outcome.next (endedBurst_of_full hheld _ _ _)⟩

/-- Settles O22: the byte is appended, and the terminator check has no effect. -/
theorem byteBelowMaxLenIsAppended : Obligations.ByteBelowMaxLenIsAppended := by
  intro b s ha hfst hbelow hnone
  rw [exec_of_accepts (.byte b) ha, effect, byteBody_of_below hfst hbelow.ne,
    terminatorCheck_of_no_tail (s := appendedByte b s) hnone]
  rfl

/-- Settles O23: the payload without its terminator is handed over. -/
theorem terminatorEndsTheBurst : Obligations.TerminatorEndsTheBurst := by
  intro b s p ha hfst hbelow hterm htail
  rw [exec_byte_of_terminator ha hfst hbelow hterm htail]
  exact ⟨fun hroom => congrArg Host.Outcome.next (endedBurst_of_room hroom _ _ _),
    fun hheld => congrArg Host.Outcome.next (endedBurst_of_full hheld _ _ _)⟩

end Sys2Proof.Machine
end

section
/-! PROOFS. The payload of a burst that its terminator ends (spec 40 R86). -/

namespace Sys2Proof.Machine

/-- What a burst in progress does with a stream that completes TERM at its last byte and not before. By induction on the
bytes before the last: each is appended to the payload, and the last one ends the burst. -/
theorem feed_of_reading {s : State} {front : List (Byte × Nat)} {b : Byte} {n : Nat} {p : List Byte}
    (hfault : s.fault = .none) (hfst : s.fst = .reading) (hroom : s.hist.length < 3)
    (htimes : timesOk s.cfg s.tlast ((front ++ [(b, n)]).map Prod.snd) = true) (hterm : s.cfg.termBytes ≠ [])
    (hstream : s.pbuf ++ (front ++ [(b, n)]).map Prod.fst = p ++ s.cfg.termBytes)
    (hfits : s.pbuf.length + (front ++ [(b, n)]).length ≤ s.cfg.maxLen)
    (hfirst : ∀ m ≤ front.length, ¬ s.cfg.termBytes <:+ s.pbuf ++ (front.map Prod.fst).take m) :
    ∃ t, feed (front ++ [(b, n)]) s = some t
      ∧ t.hist = s.hist ++ [{ bytes := p, arrival := n }] ∧ t.dl = n + s.cfg.holdOff
      ∧ t.fst = .searching ∧ t.pbuf = [] ∧ t.evout = [.searching]
      ∧ t.anom = { truncated := false, overcount := false } := by
  induction front generalizing s with
  | nil =>
    simp only [List.nil_append, List.map_cons, List.map_nil, timesOk, Bool.and_true, Bool.and_eq_true,
      decide_eq_true_eq] at htimes hstream
    have haccepts : Accepts { s with now := n } := ⟨hfault, htimes⟩
    have hend : exec (.byte b) { s with now := n } = .next (endedBurst p n false { s with now := n }) :=
      exec_byte_of_terminator haccepts hfst (Nat.lt_of_succ_le hfits) hterm hstream
    have hfeed : feed ([] ++ [(b, n)]) s = some (endedBurst p n false { s with now := n }) := by
      rw [List.nil_append, feed, hend]
      rfl
    rw [endedBurst_of_room (s := { s with now := n }) hroom.ne] at hfeed
    exact ⟨_, hfeed, rfl, rfl, rfl, rfl, rfl, rfl⟩
  | cons x front ih =>
    obtain ⟨a, k⟩ := x
    simp only [List.cons_append, List.map_cons, timesOk, Bool.and_eq_true, decide_eq_true_eq] at htimes
    obtain ⟨⟨hpast, hrange⟩, htimes⟩ := htimes
    have haccepts : Accepts { s with now := k } := ⟨hfault, hpast, hrange⟩
    have hbelow : s.pbuf.length < s.cfg.maxLen := by
      rw [List.cons_append, List.length_cons] at hfits
      omega
    have hnone : ¬ (s.cfg.termBytes ≠ [] ∧ s.cfg.termBytes <:+ s.pbuf ++ [a]) := fun ⟨_, htail⟩ =>
      hfirst 1 (by simp) (by simpa using htail)
    rw [List.cons_append, feed, byteBelowMaxLenIsAppended a { s with now := k } haccepts hfst hbelow hnone]
    refine ih hfault hfst hroom htimes hterm ?_ ?_ fun m hm => ?_
    · simpa using hstream
    · simpa [Nat.add_assoc, Nat.add_comm 1] using hfits
    · simpa using hfirst (m + 1) (Nat.succ_le_succ hm)

/-- Settles O24: right after PREFIX the payload is empty. -/
theorem payloadIsTheBytesReceived : Obligations.PayloadIsTheBytesReceived := by
  intro s front b n p hfault hfst hpbuf hroom htimes hterm hstream hfits hfirst
  exact feed_of_reading hfault hfst hroom htimes hterm (by rw [hpbuf]; exact hstream)
    (by rw [hpbuf, List.length_nil, Nat.zero_add]; exact hfits) (by rw [hpbuf]; exact hfirst)

end Sys2Proof.Machine
end

section
/-! PROOFS. Every end of a burst (spec 40 R82, 41 R91, R93, R94): the terminator, the length or the inter-byte timeout. -/

namespace Sys2Proof.Machine

/-- The deadline check belongs to the Transport: it leaves FST (R112). -/
@[simp] theorem checkDeadline_fst (s : State) : (checkDeadline s).fst = s.fst := by
  rcases checkDeadline_cases s with ⟨-, e⟩ | ⟨-, e⟩ <;> rw [e]
  exact finalize_fst s

/-- A BYTE that leaves Reading has ended a burst, by its length or its terminator (R79 to R81). -/
theorem byteBody_ends_burst {b : Byte} {s : State} (hfst : s.fst = .reading)
    (hleaves : (byteBody b (beginStep s)).fst = .searching) :
    ∃ p lbt truncated, byteBody b (beginStep s) = endedBurst p lbt truncated s
      ∧ (p = s.pbuf ∨ s.pbuf ++ [b] = p ++ s.cfg.termBytes) := by
  by_cases hfull : s.pbuf.length = s.cfg.maxLen
  · exact ⟨_, _, _, byteBody_of_full hfst hfull b, .inl rfl⟩
  · rw [byteBody_of_below hfst hfull] at hleaves ⊢
    rcases terminatorCheck_cases s.now (appendedByte b s) with ⟨-, e⟩ | ⟨p, -, htail, e⟩
    · rw [e] at hleaves
      cases hfst.symm.trans hleaves
    · exact ⟨p, s.now, false, e, .inr htail⟩

/-- A TICK that leaves Reading has ended a burst by the inter-byte timeout, before its deadline check (R90, R91). -/
theorem tickBody_ends_burst {s : State} (hfst : s.fst = .reading) (hleaves : (tickBody (beginStep s)).fst = .searching) :
    tickBody (beginStep s) = checkDeadline (endedBurst s.pbuf s.lbt false s) := by
  rw [tickBody_eq] at hleaves ⊢
  rcases checkInterByte_cases (beginStep s) with ⟨-, e⟩ | ⟨-, e⟩
  · rw [e]
    rfl
  · rw [e, checkDeadline_fst] at hleaves
    cases hfst.symm.trans hleaves

/-- A command that leaves Reading for Searching has ended a burst; its payload is PBUF, or PBUF with the byte and without
the terminator. A TICK then checks the deadline. -/
theorem exec_next_ends_burst {i : Instr} {s t : State} (h : exec i s = .next t) (hfst : s.fst = .reading)
    (hleaves : t.fst = .searching) :
    ∃ p lbt truncated, (p = s.pbuf ∨ ∃ b, i = .byte b ∧ s.pbuf ++ [b] = p ++ s.cfg.termBytes)
      ∧ (t = endedBurst p lbt truncated s ∨ i = .tick ∧ t = checkDeadline (endedBurst p lbt truncated s)) := by
  rcases exec_next h with ⟨-, -, rfl⟩ | ⟨-, -, -, rfl⟩ | ⟨-, rfl⟩
  · cases hfst.symm.trans hleaves
  · cases hfst.symm.trans hleaves
  cases i with
  | nop => cases hfst.symm.trans hleaves
  | carrier c =>
    rw [effect] at hleaves
    rcases carrierBody_cases c (beginStep s) with ⟨-, hno, -⟩ | ⟨-, -, e⟩ | ⟨-, e⟩
    · cases hfst.symm.trans hno
    · simp [e] at hleaves
    · simp [e, hfst] at hleaves
  | byte b =>
    obtain ⟨p, lbt, truncated, e, hp⟩ := byteBody_ends_burst hfst hleaves
    exact ⟨p, lbt, truncated, hp.imp_right fun htail => ⟨b, rfl, htail⟩, .inl e⟩
  | tick => exact ⟨_, _, _, .inl rfl, .inr ⟨rfl, tickBody_ends_burst hfst hleaves⟩⟩
  | freset =>
    rw [effect, fresetBody_of_active (by simp [hfst])] at hleaves
    cases hleaves

/-- A burst just accepted is not due: its deadline does not lie before `now` and FLUSH is clear (R93, R141). -/
theorem not_due_endedBurst {s : State} (h : s.hist.length ≠ 3) (p : List Byte) (lbt : Nat) (truncated : Bool) :
    ¬ Due (endedBurst p lbt truncated s) := by
  rw [endedBurst_of_room h]
  rintro ⟨-, hflush | hdeadline⟩
  · exact Bool.false_ne_true hflush
  · exact absurd hdeadline (Nat.not_lt.2 (Nat.le_add_right _ _))

/-- An ignored burst leaves the deadline check as it was: the cycle is due exactly when it was due before (R94). -/
theorem due_endedBurst_of_full {s : State} (h : s.hist.length = 3) (p : List Byte) (lbt : Nat) (truncated : Bool) :
    Due (endedBurst p lbt truncated s) ↔ Due s := by
  rw [endedBurst_of_full h]

/-- Settles O25: the deadline check of a TICK has no effect on a burst just accepted. -/
theorem acceptedBurstTakesTheNextSlot : Obligations.AcceptedBurstTakesTheNextSlot := by
  intro i s t h hfst hleaves hroom
  obtain ⟨p, lbt, truncated, hp, hend⟩ := exec_next_ends_burst h hfst hleaves
  have ht : t = endedBurst p lbt truncated s := by
    rcases hend with e | ⟨-, e⟩
    · exact e
    · exact e.trans (checkDeadline_of_not_due (not_due_endedBurst hroom.ne _ _ _))
  rw [ht, endedBurst_of_room hroom.ne]
  exact ⟨p, rfl, hp, rfl, rfl, rfl, rfl, rfl⟩

/-- Settles O26: an ignored burst leaves the Transport, so a TICK finalizes after it exactly when the cycle was due. -/
theorem overCountBurstIsIgnored : Obligations.OverCountBurstIsIgnored := by
  intro i s t h hfst hleaves hheld
  obtain ⟨p, lbt, truncated, -, hend⟩ := exec_next_ends_burst h hfst hleaves
  have hsame := due_endedBurst_of_full hheld p lbt truncated
  rcases hend with rfl | ⟨htick, rfl⟩
  · rw [endedBurst_of_full hheld]
    exact ⟨rfl, by simp, .inl ⟨rfl, rfl, rfl, rfl, rfl⟩⟩
  · by_cases hdue : Due s
    · rw [checkDeadline_of_due (hsame.2 hdue), endedBurst_of_full hheld]
      exact ⟨rfl, by simp, .inr ⟨htick, hdue, rfl⟩⟩
    · rw [checkDeadline_of_not_due (mt hsame.1 hdue), endedBurst_of_full hheld]
      exact ⟨rfl, by simp, .inl ⟨rfl, rfl, rfl, rfl, rfl⟩⟩

end Sys2Proof.Machine
end

section
/-! PROOFS. The Framer's events are those other than Ready (spec 40 R84, R88): a Ready of the Transport does not hide
them. -/

namespace Sys2Proof.Machine

/-- The Framer's events among the events of a step (R63). -/
def framerEvents (evs : List Event) : List Event := evs.filter fun e => e.kind ≠ 0b11

/-- The event of a Framer state is not Ready (R63, R64). -/
theorem framerEvents_event (f : FramerState) : framerEvents [f.event] = [f.event] := by
  cases f <;> rfl

/-- A Framer that reports its state, in a step with no event before. -/
theorem framerEvents_of_reportsFst {s t : State} (h : ReportsFst s t) (hstart : s.evout = []) :
    framerEvents t.evout = if t.fst = s.fst then [] else [t.fst.event] := by
  rcases h with ⟨hsame, e⟩ | ⟨hchanged, e⟩
  · rw [e, hstart, if_pos hsame]
    rfl
  · rw [e, hstart, if_neg hchanged, List.nil_append, framerEvents_event]

/-- The inter-byte check reports the end of the burst (R91). -/
theorem reportsFst_checkInterByte (s : State) : ReportsFst s (checkInterByte s) := by
  rcases checkInterByte_cases s with ⟨⟨hreading, -⟩, e⟩ | ⟨-, e⟩ <;> rw [e]
  · exact reportsFst_endBurst s.now hreading
  · exact .refl s

/-- The deadline check adds no event of the Framer (R92). -/
theorem framerEvents_checkDeadline (s : State) : framerEvents (checkDeadline s).evout = framerEvents s.evout := by
  rcases checkDeadline_evout s with e | ⟨r, e⟩ <;> rw [e]
  simp [framerEvents, Event.kind]

/-- The Framer's events of an effect, in a step with no event before. -/
theorem framerEvents_effect (i : Instr) {s : State} (hstart : s.evout = []) :
    framerEvents (effect i s).evout = if (effect i s).fst = s.fst then [] else [(effect i s).fst.event] := by
  by_cases hi : i = .tick
  · subst hi
    rw [effect, tickBody_eq, framerEvents_checkDeadline, checkDeadline_fst]
    exact framerEvents_of_reportsFst (reportsFst_checkInterByte s) hstart
  · exact framerEvents_of_reportsFst (reportsFst_effect hi s) hstart

/-- Settles O40: a time fault has no event and leaves FST; an effect reports its change of FST. -/
theorem framerEventsNameTheStateChange : Obligations.FramerEventsNameTheStateChange := by
  intro i s t h
  rcases exec_next h with ⟨-, -, rfl⟩ | ⟨-, -, -, rfl⟩ | ⟨-, rfl⟩
  · exact (if_pos rfl).symm
  · exact (if_pos rfl).symm
  · exact framerEvents_effect i (beginStep_evout s)

end Sys2Proof.Machine
end

section
/-! PROOFS. The vote (spec 41 R95 to R101): what a position's contributors are, what one lane of them gives, and the byte and
the byte sequence that follow. -/

namespace Sys2Proof.Machine

/-! ### The contributors of a position (R97) -/

/-- A burst that covers the position contributes its byte. -/
theorem contributors_cons_of_covers {b : Slot} {i : Nat} {a : Byte} (h : b.bytes[i]? = some a) (l : List Slot) :
    contributors (b :: l) i = a :: contributors l i :=
  List.filterMap_cons_some h

/-- A burst that ends before the position contributes nothing. -/
theorem contributors_cons_of_ends {b : Slot} {i : Nat} (h : b.bytes[i]? = none) (l : List Slot) :
    contributors (b :: l) i = contributors l i :=
  List.filterMap_cons_none h

@[simp] theorem contributors_nil (i : Nat) : contributors [] i = [] := rfl

/-- A position below the consensus length has a contributor: the longest burst covers it (R96). -/
theorem contributors_ne_nil {h : List Slot} {i : Nat} (hi : i < consensusLength h) : contributors h i ≠ [] := by
  have hne : h ≠ [] := by
    rintro rfl
    exact absurd hi (Nat.not_lt_zero i)
  obtain ⟨b, hb, hlen⟩ := exists_length_eq_consensusLength hne
  have hcovers : i < b.bytes.length := hlen ▸ hi
  rw [contributors_eq]
  exact List.ne_nil_of_mem (List.mem_map_of_mem (List.mem_filter.2 ⟨hb, decide_eq_true hcovers⟩))

/-! ### One lane of the vote (R98, R99) -/

/-- The contributors whose bit is not set are the rest. -/
theorem length_sub_onesAt (cs : List Byte) (j : Nat) :
    cs.length - onesAt cs j = (cs.filter fun c => c.getLsbD j = false).length := by
  have hsplit := List.length_eq_countP_add_countP (fun c : Byte => c.getLsbD j) (l := cs)
  rw [onesAt, ← List.countP_eq_length_filter]
  simp only [Bool.not_eq_true] at hsplit
  omega

/-- The voted bit by the number of ones and zeros, and the first contributor on a tie. -/
theorem votedBit_eq {cs : List Byte} {j ones zeros : Nat}
    (hones : ones = (cs.filter fun c => c.getLsbD j = true).length)
    (hzeros : zeros = (cs.filter fun c => c.getLsbD j = false).length) :
    votedBit cs j = if zeros < ones then true else if ones < zeros then false else (cs.headD 0).getLsbD j := by
  have hones' : onesAt cs j = ones := by
    rw [hones, onesAt, List.countP_eq_length_filter]
    simp
  rw [votedBit, length_sub_onesAt, hones', ← hzeros]

theorem votedBit_nil (j : Nat) : votedBit [] j = (0 : Byte).getLsbD j := rfl

theorem votedBit_one (a : Byte) (j : Nat) : votedBit [a] j = a.getLsbD j := by
  cases h : a.getLsbD j <;> simp [votedBit, onesAt, h]

/-- Two contributors agree, or tie and the first decides (R99). -/
theorem votedBit_two (a b : Byte) (j : Nat) : votedBit [a, b] j = a.getLsbD j := by
  cases ha : a.getLsbD j <;> cases hb : b.getLsbD j <;> simp [votedBit, onesAt, ha, hb]

/-- A bit of the bitwise majority is set where two of the three are. -/
theorem getLsbD_maj (a b c : Byte) (j : Nat) :
    (maj a b c).getLsbD j
      = (a.getLsbD j && b.getLsbD j || a.getLsbD j && c.getLsbD j || b.getLsbD j && c.getLsbD j) := by
  simp [maj]

/-- Three contributors never tie. -/
theorem votedBit_three (a b c : Byte) (j : Nat) : votedBit [a, b, c] j = (maj a b c).getLsbD j := by
  rw [getLsbD_maj]
  cases ha : a.getLsbD j <;> cases hb : b.getLsbD j <;> cases hc : c.getLsbD j <;> simp [votedBit, onesAt, ha, hb, hc]

/-! ### The voted byte (R98, R101) -/

/-- A byte that agrees with the vote in every lane is the voted byte. -/
theorem votedByte_eq_of_lanes {cs : List Byte} {v : Byte} (h : ∀ j, votedBit cs j = v.getLsbD j) : votedByte cs = v :=
  BitVec.eq_of_getLsbD_eq fun j hj => (getLsbD_votedByte cs hj).trans (h j)

theorem votedByte_nil : votedByte [] = 0 := votedByte_eq_of_lanes votedBit_nil

theorem votedByte_one (a : Byte) : votedByte [a] = a := votedByte_eq_of_lanes (votedBit_one a)

theorem votedByte_two (a b : Byte) : votedByte [a, b] = a := votedByte_eq_of_lanes (votedBit_two a b)

theorem votedByte_three (a b c : Byte) : votedByte [a, b, c] = maj a b c := votedByte_eq_of_lanes (votedBit_three a b c)

/-- The byte-wide form is the vote for at most three contributors (R101). -/
theorem votedByte_eq_votedByteWide {cs : List Byte} (h : cs.length ≤ 3) : votedByte cs = votedByteWide cs := by
  match cs with
  | [] => exact votedByte_nil
  | [a] => exact votedByte_one a
  | [a, b] => exact votedByte_two a b
  | [a, b, c] => exact votedByte_three a b c
  | _ :: _ :: _ :: _ :: _ =>
    simp only [List.length_cons] at h
    omega

/-! ### The consensus (R96) -/

/-- A byte sequence of the consensus length that holds the voted byte at every position is the consensus. -/
theorem consensus_eq {h : List Slot} {l : List Byte} (hlen : consensusLength h = l.length)
    (hvoted : ∀ i a, l[i]? = some a → votedByte (contributors h i) = a) : consensus h = l := by
  refine List.ext_getElem ((length_consensus h).trans hlen) fun i hi hi' => ?_
  exact (consensus_getElem hi).trans (hvoted i _ (List.getElem?_eq_getElem hi'))

/-- A byte of the consensus is the voted byte of a position below the consensus length. -/
theorem getElem?_consensus {h : List Slot} {i : Nat} {v : Byte} (hv : (consensus h)[i]? = some v) :
    i < consensusLength h ∧ v = votedByte (contributors h i) := by
  obtain ⟨hi, rfl⟩ := List.getElem?_eq_some_iff.1 hv
  exact ⟨length_consensus h ▸ hi, consensus_getElem hi⟩

/-- The vote of one burst is that burst (R95). -/
theorem consensus_one (b : Slot) : consensus [b] = b.bytes := by
  refine consensus_eq (Nat.max_zero _) fun i a ha => ?_
  rw [contributors_cons_of_covers ha, contributors_nil, votedByte_one]

/-- The first burst decides every position that it covers, and the second burst the positions beyond (R101). -/
theorem consensus_two (x y : Slot) : consensus [x, y] = x.bytes ++ y.bytes.drop x.bytes.length := by
  have hlen : consensusLength [x, y] = (x.bytes ++ y.bytes.drop x.bytes.length).length := by
    simp only [consensusLength, List.foldr, List.length_append, List.length_drop]
    omega
  refine consensus_eq hlen fun i a ha => ?_
  by_cases hx : i < x.bytes.length
  · rw [List.getElem?_append_left hx] at ha
    rw [contributors_cons_of_covers ha]
    cases hy : y.bytes[i]? with
    | none => rw [contributors_cons_of_ends hy, contributors_nil, votedByte_one]
    | some b => rw [contributors_cons_of_covers hy, contributors_nil, votedByte_two]
  · have hx' : x.bytes.length ≤ i := Nat.le_of_not_lt hx
    rw [List.getElem?_append_right hx', List.getElem?_drop, Nat.add_sub_cancel' hx'] at ha
    rw [contributors_cons_of_ends (List.getElem?_eq_none hx'), contributors_cons_of_covers ha, contributors_nil,
      votedByte_one]

/-- Three bursts of the same bytes give those bytes (R108 (d)). -/
theorem consensus_three_equal {x y z : Slot} (hxy : x.bytes = y.bytes) (hyz : y.bytes = z.bytes) :
    consensus [x, y, z] = x.bytes := by
  have hlen : consensusLength [x, y, z] = x.bytes.length := by simp [consensusLength, hxy, hyz]
  refine consensus_eq hlen fun i a ha => ?_
  have hy : y.bytes[i]? = some a := hxy ▸ ha
  have hz : z.bytes[i]? = some a := hyz ▸ hy
  rw [contributors_cons_of_covers ha, contributors_cons_of_covers hy, contributors_cons_of_covers hz, contributors_nil,
    votedByte_three]
  simp [maj]

/-- The payload is the consensus for every number of bursts (R95). -/
theorem finalPayload_eq_consensus (h : List Slot) : finalPayload h = consensus h := by
  match h with
  | [] => rfl
  | [b] => exact (consensus_one b).symm
  | _ :: _ :: _ => rfl

/-- A cycle of empty bursts has the empty payload (R104). -/
theorem finalPayload_of_empty {h : List Slot} (hempty : ∀ b ∈ h, b.bytes = []) : finalPayload h = [] := by
  rw [finalPayload_eq_consensus, ← List.length_eq_zero_iff, length_consensus]
  by_cases hne : h = []
  · rw [hne]
    rfl
  · obtain ⟨b, hb, hlen⟩ := exists_length_eq_consensusLength hne
    rw [← hlen, hempty b hb]
    rfl

/-! ### The statements -/

/-- Settles O33: the consensus has the consensus length, which is that of a longest burst. -/
theorem consensusLengthIsTheLongestBurst : Obligations.ConsensusLengthIsTheLongestBurst := by
  intro h hne
  rw [length_consensus]
  exact ⟨fun _ hb => length_le_consensusLength hb, exists_length_eq_consensusLength hne⟩

/-- Settles O34: the claim's bytes are the contributors, and each lane of the voted byte is the voted bit. -/
theorem everyBitIsTheMajorityOfItsContributors : Obligations.EveryBitIsTheMajorityOfItsContributors := by
  intro h i j cs ones zeros v hj hv hcs hones hzeros
  rw [← contributors_eq] at hcs
  obtain ⟨hi, rfl⟩ := getElem?_consensus hv
  rw [← hcs, getLsbD_votedByte cs hj, votedBit_eq hones hzeros]
  refine ⟨hcs ▸ contributors_ne_nil hi, fun hmore => if_pos hmore, fun hless => ?_, fun htie c hc => ?_⟩
  · rw [if_neg hless.asymm, if_pos hless]
  · rw [if_neg htie.not_gt, if_neg htie.not_lt, List.headD_eq_head?_getD, Option.mem_def.1 hc, Option.getD_some]

/-- Settles O35: by the number of contributors, lane by lane. -/
theorem byteWideVoteIsTheMajorityTree : Obligations.ByteWideVoteIsTheMajorityTree :=
  ⟨votedByte_three, votedByte_two, votedByte_one, consensus_two⟩

/-- Settles O36: at most three bursts have at most three contributors at a position. -/
theorem byteWideConsensusEqualsTheBitVote : Obligations.ByteWideConsensusEqualsTheBitVote := fun h hcount =>
  List.map_congr_left fun _ _ => votedByte_eq_votedByteWide ((List.length_filterMap_le _ h).trans hcount)

/-- Settles O37: the vote of one burst is that burst. -/
theorem payloadOfOneBurstIsThatBurst : Obligations.PayloadOfOneBurstIsThatBurst :=
  ⟨fun b => ⟨rfl, consensus_one b⟩, fun h _ => finalPayload_eq_consensus h⟩

/-- Settles O38: three bursts that cover a position vote by majority, lane by lane. -/
theorem twoAgreeingBurstsDecide : Obligations.TwoAgreeingBurstsDecide := by
  refine ⟨fun x y z i j a b c v hj ha hb hc hv => ?_, fun x y z hxy hyz => consensus_three_equal hxy hyz⟩
  obtain ⟨-, rfl⟩ := getElem?_consensus (h := [x, y, z]) hv
  rw [contributors_cons_of_covers ha, contributors_cons_of_covers hb, contributors_cons_of_covers hc, contributors_nil,
    getLsbD_votedByte _ hj, votedBit_three, getLsbD_maj]
  refine ⟨fun hab => ?_, fun hac => ?_, fun hbc => ?_⟩
  · rw [hab]
    cases b.getLsbD j <;> cases c.getLsbD j <;> rfl
  · rw [hac]
    cases b.getLsbD j <;> cases c.getLsbD j <;> rfl
  · rw [hbc]
    cases a.getLsbD j <;> cases c.getLsbD j <;> rfl

end Sys2Proof.Machine
end

section
/-! PROOFS. TICK (spec 41 R90 to R104): the inter-byte check, and then the deadline check on what it leaves. -/

namespace Sys2Proof.Machine

/-! ### The outcomes of a TICK that passes the checks -/

/-- TICK with no timeout and no cycle due has no effect (R90 to R92). -/
theorem exec_tick_of_not_due {s : State} (ha : Accepts s) (htimeout : ¬ TimedOut s) (hdue : ¬ Due s) :
    exec .tick s = .next (beginStep s) := by
  have hframer : checkInterByte (beginStep s) = beginStep s := checkInterByte_of_not_timedOut htimeout
  have htransport : checkDeadline (beginStep s) = beginStep s := checkDeadline_of_not_due hdue
  rw [exec_of_accepts .tick ha, effect, tickBody_eq, hframer, htransport]

/-- A burst in progress has timed out: the inter-byte check ends it (R91). -/
theorem checkInterByte_of_timedOut {s : State} (h : TimedOut s) : checkInterByte s = endBurst s.now s := by
  rcases checkInterByte_cases s with ⟨-, e⟩ | ⟨hnot, -⟩
  · exact e
  · exact absurd h hnot

/-- TICK with a timeout ends the burst, and then checks the deadline (R90, R91). -/
theorem exec_tick_of_timedOut {s : State} (ha : Accepts s) (htimeout : TimedOut s) :
    exec .tick s = .next (checkDeadline (endedBurst s.pbuf s.lbt false s)) := by
  have hframer : checkInterByte (beginStep s) = endedBurst s.pbuf s.lbt false s := checkInterByte_of_timedOut htimeout
  rw [exec_of_accepts .tick ha, effect, tickBody_eq, hframer]

/-! ### The statements -/

/-- Settles O27: with no timeout only the deadline check is left. -/
theorem tickChecksTheDeadline : Obligations.TickChecksTheDeadline :=
  ⟨decode_encode .tick, fun _ ha htimeout =>
    ⟨fun hdue => exec_tick_of_not_due ha htimeout hdue, fun hdue => exec_tick_of_due ha htimeout hdue⟩⟩

/-- Settles O28: a burst just accepted is not due, and an ignored one leaves the deadline check as it was. -/
theorem tickTimesOutTheBurst : Obligations.TickTimesOutTheBurst := by
  intro s ha htimeout
  rw [exec_tick_of_timedOut ha htimeout]
  refine ⟨fun hroom => ?_, fun hheld hdue => ?_, fun hheld hdue => ?_⟩
  · rw [checkDeadline_of_not_due (not_due_endedBurst hroom _ _ _), endedBurst_of_room hroom]
  · rw [checkDeadline_of_not_due (mt (due_endedBurst_of_full hheld _ _ _).1 hdue), endedBurst_of_full hheld]
  · rw [checkDeadline_of_due ((due_endedBurst_of_full hheld _ _ _).2 hdue), endedBurst_of_full hheld]
    rfl

/-- Settles O29: with no burst held no cycle is due. -/
theorem tickFromIdleDoesNothing : Obligations.TickFromIdleDoesNothing := by
  intro s ha hidle htimeout
  have hdue : ¬ Due s := fun ⟨hheld, _⟩ => List.length_pos_iff.1 hheld hidle
  exact exec_tick_of_not_due ha htimeout hdue

/-- Settles O30: with FLUSH clear the cycle is due exactly after its deadline, and one burst is its own payload. -/
theorem singleBurstIsReportedAfterItsDeadline : Obligations.SingleBurstIsReportedAfterItsDeadline := by
  intro s b ha htimeout hheld hflush
  refine ⟨fun hbefore => ?_, fun hafter => ?_⟩
  · have hdue : ¬ Due s := by simp [hflush, hbefore]
    exact ⟨_, exec_tick_of_not_due ha htimeout hdue, rfl, hheld, rfl⟩
  · have hdue : Due s := ⟨by simp [hheld], .inr hafter⟩
    have hpayload : finalPayload s.hist = b.bytes := congrArg finalPayload hheld
    exact ⟨_, exec_tick_of_due ha htimeout hdue, by simp [hpayload], rfl, rfl⟩

/-- Settles O39: the payload of empty bursts is empty, and the cycle is finalized as any other. -/
theorem emptyBurstsAreStillReported : Obligations.EmptyBurstsAreStillReported := by
  intro s ha htimeout hdue hempty
  have hpayload : finalPayload s.hist = [] := finalPayload_of_empty hempty
  exact ⟨_, exec_tick_of_due ha htimeout hdue, by simp [hpayload], by simp [hpayload]⟩

end Sys2Proof.Machine
end

section
/-! PROOFS. What each command does to the Transport (spec 41 R93, R100, R103, R107, R111, 70 R141): outside TICK a burst end
fills a slot and a carrier loss raises FLUSH; a TICK also finalizes. -/

namespace Sys2Proof.Machine

/-! ### Outside TICK (R107) -/

/-- From `s` to `t` the Transport keeps its registers and presents nothing new to the decoder. -/
structure KeepsTransport (s t : State) : Prop where
  hist : t.hist = s.hist
  tst : t.tst = s.tst
  dl : t.dl = s.dl
  flush : t.flush = s.flush
  decReq : t.decReq = s.decReq

theorem KeepsTransport.refl (s : State) : KeepsTransport s s := ⟨rfl, rfl, rfl, rfl, rfl⟩

/-- An ignored burst leaves the Transport (R94). -/
theorem keepsTransport_endedBurst_of_full {s : State} (h : s.hist.length = 3) (p : List Byte) (lbt : Nat)
    (truncated : Bool) : KeepsTransport (beginStep s) (endedBurst p lbt truncated s) := by
  rw [endedBurst_of_full h]
  exact ⟨rfl, rfl, rfl, rfl, rfl⟩

/-- The step from `s` to `t` ends a burst that takes the next slot (R93). -/
def AcceptsBurst (s t : State) : Prop :=
  s.fst = .reading ∧ s.hist.length ≠ 3 ∧ ∃ p lbt truncated, t = endedBurst p lbt truncated s

/-- The end of a burst while Reading leaves the Transport, or takes the next slot (R93, R94). -/
theorem endedBurst_keepsTransport_or_accepts {s : State} (hfst : s.fst = .reading) (p : List Byte) (lbt : Nat)
    (truncated : Bool) :
    KeepsTransport (beginStep s) (endedBurst p lbt truncated s) ∨ AcceptsBurst s (endedBurst p lbt truncated s) := by
  by_cases hheld : s.hist.length = 3
  · exact .inl (keepsTransport_endedBurst_of_full hheld p lbt truncated)
  · exact .inr ⟨hfst, hheld, p, lbt, truncated, rfl⟩

/-- A BYTE leaves the Transport, or ends a burst that takes the next slot. -/
theorem byteBody_keepsTransport_or_accepts (b : Byte) (s : State) :
    KeepsTransport (beginStep s) (byteBody b (beginStep s)) ∨ AcceptsBurst s (byteBody b (beginStep s)) := by
  cases hfst : s.fst with
  | noCarrier =>
    rw [byteBody_of_noCarrier (s := beginStep s) hfst]
    exact .inl (.refl _)
  | searching =>
    rw [byteBody_of_searching (s := beginStep s) hfst]
    rcases windowByte_cases b (beginStep s) with ⟨-, e⟩ | ⟨-, e⟩ <;> rw [e] <;> exact .inl ⟨rfl, rfl, rfl, rfl, rfl⟩
  | reading =>
    by_cases hfull : s.pbuf.length = s.cfg.maxLen
    · rw [byteBody_of_full hfst hfull]
      exact endedBurst_keepsTransport_or_accepts hfst _ _ _
    · rw [byteBody_of_below hfst hfull]
      rcases terminatorCheck_cases s.now (appendedByte b s) with ⟨-, e⟩ | ⟨p, -, -, e⟩ <;> rw [e]
      · exact .inl ⟨rfl, rfl, rfl, rfl, rfl⟩
      · exact endedBurst_keepsTransport_or_accepts hfst p s.now false

/-- Everything that a command other than TICK does to the Transport. -/
theorem effect_transport_cases {i : Instr} (hi : i ≠ .tick) (s : State) :
    KeepsTransport (beginStep s) (effect i (beginStep s))
    ∨ ((i = .carrier false ∨ i = .freset) ∧ effect i (beginStep s) = enterNoCarrier (beginStep s))
    ∨ ∃ b, i = .byte b ∧ AcceptsBurst s (effect i (beginStep s)) := by
  cases i with
  | nop => exact .inl (.refl _)
  | carrier p =>
    rw [effect]
    rcases carrierBody_cases p (beginStep s) with ⟨-, -, e⟩ | ⟨rfl, -, e⟩ | ⟨-, e⟩
    · exact .inl (e ▸ ⟨rfl, rfl, rfl, rfl, rfl⟩)
    · exact .inr (.inl ⟨.inl rfl, e⟩)
    · exact .inl (e.symm ▸ .refl _)
  | byte b =>
    rcases byteBody_keepsTransport_or_accepts b s with hkeeps | haccepts
    · exact .inl hkeeps
    · exact .inr (.inr ⟨b, rfl, haccepts⟩)
  | tick => exact absurd rfl hi
  | freset =>
    rw [effect]
    rcases fresetBody_cases (beginStep s) with ⟨-, e⟩ | ⟨-, e⟩
    · exact .inl (e.symm ▸ .refl _)
    · exact .inr (.inl ⟨.inr rfl, e⟩)

/-- Settles O44: a time fault leaves the Transport, and an effect does one of three things to it. -/
theorem transportChangesOnlyByBurstsAndTicks : Obligations.TransportChangesOnlyByBurstsAndTicks := by
  intro i s t h hi
  rcases exec_next h with ⟨-, -, rfl⟩ | ⟨-, -, -, rfl⟩ | ⟨-, rfl⟩
  · exact .inl ⟨rfl, rfl, rfl, .inl rfl⟩
  · exact .inl ⟨rfl, rfl, rfl, .inl rfl⟩
  · rcases effect_transport_cases hi s with hkeeps | ⟨hloss, e⟩ | ⟨b, hbyte, hfst, hroom, p, lbt, truncated, e⟩
    · exact .inl ⟨hkeeps.hist, hkeeps.tst, hkeeps.dl, .inl hkeeps.flush⟩
    · rw [e]
      exact .inl ⟨rfl, rfl, rfl, .inr ⟨rfl, hloss⟩⟩
    · rw [e, endedBurst_of_room hroom]
      exact .inr ⟨b, _, hbyte, hfst, rfl⟩

/-! ### The decoder request (R111) -/

/-- The step from `s` to `t` calls no decoder, reports no cycle and keeps every burst held. -/
def Silent (s t : State) : Prop :=
  t.decReq = none ∧ (∀ r, .ready r ∉ t.evout) ∧ s.hist <+: t.hist

theorem silent_raiseFault (code : FaultCode) (s : State) : Silent s (raiseFault code s) :=
  ⟨rfl, fun _ => List.not_mem_nil, List.prefix_rfl⟩

/-- A burst that ends is not reported by its end (R93, R94). -/
theorem silent_endedBurst (p : List Byte) (lbt : Nat) (truncated : Bool) (s : State) :
    Silent s (endedBurst p lbt truncated s) := by
  by_cases hheld : s.hist.length = 3
  · rw [endedBurst_of_full hheld]
    exact ⟨rfl, by simp, List.prefix_rfl⟩
  · rw [endedBurst_of_room hheld]
    exact ⟨rfl, by simp, List.prefix_append _ _⟩

/-- A command other than TICK reports nothing (R111). -/
theorem silent_of_ne_tick {i : Instr} {s t : State} (hi : i ≠ .tick) (h : exec i s = .next t) : Silent s t := by
  obtain ⟨-, hquiet⟩ := eventsOfAStepAreInOrder i s t h
  rcases exec_next h with ⟨-, -, rfl⟩ | ⟨-, -, -, rfl⟩ | ⟨-, rfl⟩
  · exact silent_raiseFault _ s
  · exact silent_raiseFault _ s
  · rcases effect_transport_cases hi s with hkeeps | ⟨-, e⟩ | ⟨b, -, -, -, p, lbt, truncated, e⟩
    · exact ⟨hkeeps.decReq, hquiet hi, hkeeps.hist ▸ List.prefix_rfl⟩
    · exact ⟨congrArg State.decReq e, hquiet hi, e ▸ List.prefix_rfl⟩
    · exact e ▸ silent_endedBurst p lbt truncated s

/-- The inter-byte check reports nothing, and where the cycle is then due it has kept the history (R90). -/
theorem checkInterByte_beginStep (s : State) :
    Silent s (checkInterByte (beginStep s))
      ∧ (Due (checkInterByte (beginStep s)) → (checkInterByte (beginStep s)).hist = s.hist) := by
  rcases checkInterByte_cases (beginStep s) with ⟨-, e⟩ | ⟨-, e⟩ <;> rw [e]
  · refine ⟨silent_endedBurst s.pbuf s.lbt false s, fun hdue => ?_⟩
    by_cases hheld : s.hist.length = 3
    · exact (keepsTransport_endedBurst_of_full hheld s.pbuf s.lbt false).hist
    · exact absurd hdue (not_due_endedBurst hheld s.pbuf s.lbt false)
  · exact ⟨⟨rfl, by simp, List.prefix_rfl⟩, fun _ => rfl⟩

/-- Settles O42: a TICK finalizes a cycle that is due after the inter-byte check; every other step is silent. -/
theorem decoderIsCalledOncePerFinalization : Obligations.DecoderIsCalledOncePerFinalization := by
  intro i s t h
  by_cases hi : i = .tick
  · subst hi
    rcases exec_next h with ⟨-, -, rfl⟩ | ⟨-, -, -, rfl⟩ | ⟨-, rfl⟩
    · exact .inl (silent_raiseFault _ s)
    · exact .inl (silent_raiseFault _ s)
    · rw [effect, tickBody_eq]
      obtain ⟨hsilent, hkept⟩ := checkInterByte_beginStep s
      rcases checkDeadline_cases (checkInterByte (beginStep s)) with ⟨hdue, e⟩ | ⟨-, e⟩ <;> rw [e]
      · have hhist := hkept hdue
        obtain ⟨hheld, -⟩ := hdue
        rw [hhist, List.length_pos_iff] at hheld
        refine .inr ⟨rfl, hheld, by simp [hhist], ?_, rfl, rfl, rfl, rfl⟩
        rcases checkInterByte_evout (beginStep s) with e' | e' <;> simp [e', hhist, Event.kind]
      · exact .inl hsilent
  · exact .inl (silent_of_ne_tick hi h)

/-! ### Reported once (R103) -/

/-- A step that reports a cycle had bursts held, and holds none after it (R100). -/
theorem hist_of_ready {i : Instr} {s t : State} {r : DecodeResult} (h : exec i s = .next t) (hr : .ready r ∈ t.evout) :
    s.hist ≠ [] ∧ t.hist = [] := by
  rcases decoderIsCalledOncePerFinalization i s t h with ⟨-, hquiet, -⟩ | ⟨-, hheld, -, -, hempty, -⟩
  · exact absurd hr (hquiet r)
  · exact ⟨hheld, hempty⟩

/-- No input of the host makes a block report that holds no burst. -/
theorem step_reports_nothing {s t : State} (h : step s = .next t) (hempty : s.hist = []) (r : DecodeResult) :
    .ready r ∉ t.evout := by
  intro hr
  rcases step_next h with ⟨rest, rfl, -⟩ | ⟨-, c, rest, -, ⟨_, -, rfl⟩ | ⟨i, -, hexec⟩⟩
  · exact absurd hr List.not_mem_nil
  · exact absurd hr List.not_mem_nil
  · obtain ⟨hheld, -⟩ := hist_of_ready hexec hr
    exact hheld hempty

/-- No run reports while no burst is held, by induction on its length. -/
theorem runEvents_report_nothing (k : Nat) {s : State} (hempty : ∀ j < k, (runEnd j s).hist = []) (r : DecodeResult) :
    .ready r ∉ runEvents k s := by
  induction k generalizing s with
  | zero => exact List.not_mem_nil
  | succ k ih =>
    cases hstep : step s with
    | next t =>
      rw [runEvents_succ_of_next hstep, List.mem_append, not_or]
      refine ⟨step_reports_nothing hstep (hempty 0 (Nat.succ_pos k)) r, ih fun j hj => ?_⟩
      rw [← runEnd_succ_of_next hstep]
      exact hempty (j + 1) (Nat.succ_lt_succ hj)
    | fault f => simp [runEvents, hstep]
    | refused f => simp [runEvents, hstep]

/-- Settles O31: a step that reports empties the history, and a block that holds no burst reports nothing. -/
theorem finalizedCycleIsReportedOnce : Obligations.FinalizedCycleIsReportedOnce := by
  intro i s t r h hr
  obtain ⟨-, hempty⟩ := hist_of_ready h hr
  refine ⟨fun u n hu r' hr' => ?_, fun k later hheld r' => runEvents_report_nothing k hheld r'⟩
  obtain ⟨hheld, -⟩ := hist_of_ready hu hr'
  exact hheld hempty

/-! ### A burst end and a TICK at the same time (R141) -/

/-- A BYTE that changes the history passes the checks and ends a burst that takes the next slot. -/
theorem acceptsBurst_of_byte {b : Byte} {s t : State} (h : exec (.byte b) s = .next t) (hchanged : t.hist ≠ s.hist) :
    Accepts s ∧ AcceptsBurst s t := by
  rcases exec_next h with ⟨-, -, rfl⟩ | ⟨-, -, -, rfl⟩ | ⟨ha, rfl⟩
  · exact absurd rfl hchanged
  · exact absurd rfl hchanged
  · rcases byteBody_keepsTransport_or_accepts b s with hkeeps | haccepts
    · exact absurd hkeeps.hist hchanged
    · exact ⟨ha, haccepts⟩

/-- Settles O32: the new deadline does not lie before the time of the burst end, and with HOLD_OFF = 0 it is that time. -/
theorem sameTimeTickDoesNotFinalizeTheNewBurst : Obligations.SameTimeTickDoesNotFinalizeTheNewBurst := by
  intro b s t h hchanged
  obtain ⟨⟨hfault, -, hrange⟩, -, hroom, p, lbt, truncated, rfl⟩ := acceptsBurst_of_byte h hchanged
  have hnotDue := not_due_endedBurst hroom p lbt truncated
  rw [endedBurst_of_room hroom] at hnotDue ⊢
  refine ⟨⟨_, exec_tick_of_not_due ⟨hfault, Nat.le_refl _, hrange⟩ (by simp) hnotDue, rfl, rfl⟩, ?_⟩
  intro n hholdOff hlater hlegal
  have hdue : s.now + s.cfg.holdOff < n := by omega
  exact ⟨_, exec_tick_of_due ⟨hfault, hlater.le, hlegal⟩ (by simp) ⟨by simp, .inr hdue⟩, rfl, rfl⟩

end Sys2Proof.Machine
end

section
/-! PROOFS. The Framer and the Transport read none of each other's registers (spec 41 R112): two states that differ on one side
only go through every operation with the other side alike. -/

namespace Sys2Proof.Machine

/-! ### The checks of the frame (R70) -/

/-- A time that goes back (R114). -/
theorem frame_of_time_back {body : State → State} {s : State} (hfault : s.fault = .none) (h : s.now < s.tlast) :
    frame body s = .next (raiseFault .timeRegression s) := by
  simp [frame, hfault, h]

/-- A time out of range (R114). -/
theorem frame_of_time_beyond {body : State → State} {s : State} (hfault : s.fault = .none) (hpast : s.tlast ≤ s.now)
    (h : timeLimit s.cfg < s.now) : frame body s = .next (raiseFault .timeRange s) := by
  simp [frame, hfault, Nat.not_lt.2 hpast, h]

/-- What the checks of R70 read: FAULT, TLAST, the time and the parameters. -/
def SameChecks (s s' : State) : Prop :=
  s'.fault = s.fault ∧ s'.tlast = s.tlast ∧ s'.now = s.now ∧ s'.cfg = s.cfg

/-- The checks answer alike for two states in which they read the same: both take the same fault, or both have the
command's effect. -/
theorem exec_of_sameChecks {i : Instr} {s s' t : State} (hsame : SameChecks s s') (h : exec i s = .next t) :
    ∃ t', exec i s' = .next t'
      ∧ ((∃ code, t = raiseFault code s ∧ t' = raiseFault code s')
        ∨ (t = effect i (beginStep s) ∧ t' = effect i (beginStep s'))) := by
  obtain ⟨hfault, htlast, hnow, hcfg⟩ := hsame
  rw [exec_eq_frame]
  rcases exec_next h with ⟨h0, hback, rfl⟩ | ⟨h0, hpast, hbeyond, rfl⟩ | ⟨ha, rfl⟩
  · rw [← hfault] at h0
    rw [← hnow, ← htlast] at hback
    exact ⟨_, frame_of_time_back h0 hback, .inl ⟨_, rfl, rfl⟩⟩
  · rw [← hfault] at h0
    rw [← hnow, ← htlast] at hpast
    rw [← hnow, ← hcfg] at hbeyond
    exact ⟨_, frame_of_time_beyond h0 hpast hbeyond, .inl ⟨_, rfl, rfl⟩⟩
  · have ha' : Accepts s' := by
      unfold Accepts
      rw [hfault, htlast, hnow, hcfg]
      exact ha
    exact ⟨_, frame_of_accepts ha', .inr ⟨rfl, rfl⟩⟩

/-! ### The Framer does not read the Transport -/

/-- Two states with the same Framer registers, and the same time and parameters for the Framer to read. -/
structure SameFramer (s s' : State) : Prop where
  fst : s'.fst = s.fst
  win : s'.win = s.win
  pbuf : s'.pbuf = s.pbuf
  lbt : s'.lbt = s.lbt
  cfg : s'.cfg = s.cfg
  now : s'.now = s.now

theorem SameFramer.refl (s : State) : SameFramer s s := ⟨rfl, rfl, rfl, rfl, rfl, rfl⟩

theorem SameFramer.symm {s s' : State} (h : SameFramer s s') : SameFramer s' s :=
  ⟨h.fst.symm, h.win.symm, h.pbuf.symm, h.lbt.symm, h.cfg.symm, h.now.symm⟩

theorem SameFramer.trans {s s' s'' : State} (h : SameFramer s s') (h' : SameFramer s' s'') : SameFramer s s'' :=
  ⟨h'.fst.trans h.fst, h'.win.trans h.win, h'.pbuf.trans h.pbuf, h'.lbt.trans h.lbt, h'.cfg.trans h.cfg,
    h'.now.trans h.now⟩

/-- Accepting a burst writes no Framer register (R93, R94). -/
theorem sameFramer_acceptBurst (p : List Byte) (t : Nat) (s : State) : SameFramer s (acceptBurst p t s) := by
  rcases acceptBurst_cases p t s with ⟨-, e⟩ | ⟨-, e⟩ <;> rw [e] <;> exact ⟨rfl, rfl, rfl, rfl, rfl, rfl⟩

/-- The deadline check writes no Framer register (R92, R100). -/
theorem sameFramer_checkDeadline (s : State) : SameFramer s (checkDeadline s) := by
  rcases checkDeadline_cases s with ⟨-, e⟩ | ⟨-, e⟩ <;> rw [e]
  · exact ⟨rfl, rfl, rfl, rfl, rfl, rfl⟩
  · exact .refl s

section
variable {s s' : State}

theorem SameFramer.enterSearching (h : SameFramer s s') : SameFramer (enterSearching s) (enterSearching s') :=
  { h with fst := rfl, win := rfl, pbuf := rfl }

theorem SameFramer.enterNoCarrier (h : SameFramer s s') : SameFramer (enterNoCarrier s) (enterNoCarrier s') :=
  { h with fst := rfl, win := rfl, pbuf := rfl }

theorem SameFramer.endBurst (h : SameFramer s s') (t : Nat) : SameFramer (endBurst t s) (endBurst t s') :=
  (((sameFramer_acceptBurst _ t s).symm.trans h).trans (sameFramer_acceptBurst _ t s')).enterSearching

theorem SameFramer.terminatorCheck (h : SameFramer s s') (t : Nat) :
    SameFramer (terminatorCheck t s) (terminatorCheck t s') := by
  unfold Machine.terminatorCheck
  rw [h.cfg, h.pbuf]
  split
  · refine SameFramer.endBurst ?_ t
    exact { h with pbuf := rfl, cfg := rfl }
  · exact h

theorem SameFramer.windowByte (h : SameFramer s s') (b : Byte) : SameFramer (windowByte b s) (windowByte b s') := by
  unfold Machine.windowByte
  simp only [h.cfg, h.win, h.now]
  split
  · exact ⟨rfl, rfl, rfl, rfl, rfl, rfl⟩
  · exact { h with win := rfl, cfg := rfl, now := rfl }

theorem SameFramer.truncateBurst (h : SameFramer s s') : SameFramer (truncateBurst s) (truncateBurst s') := by
  unfold Machine.truncateBurst
  rw [h.now]
  refine SameFramer.endBurst ?_ s.now
  exact { h with now := rfl }

theorem SameFramer.appendByte (h : SameFramer s s') (b : Byte) : SameFramer (appendByte b s) (appendByte b s') := by
  unfold Machine.appendByte
  rw [h.now, h.pbuf]
  refine SameFramer.terminatorCheck ?_ s.now
  exact { h with pbuf := rfl, lbt := rfl, now := rfl }

theorem SameFramer.carrierBody (h : SameFramer s s') (p : Bool) : SameFramer (carrierBody p s) (carrierBody p s') := by
  unfold Machine.carrierBody
  rw [h.fst]
  cases p <;> cases s.fst
  case true.noCarrier => exact h.enterSearching
  case false.searching => exact h.enterNoCarrier
  case false.reading => exact h.enterNoCarrier
  all_goals exact h

theorem SameFramer.byteBody (h : SameFramer s s') (b : Byte) : SameFramer (byteBody b s) (byteBody b s') := by
  have hplen : s'.plen = s.plen := congrArg List.length h.pbuf
  unfold Machine.byteBody
  rw [h.fst, hplen, h.cfg]
  cases s.fst with
  | noCarrier => exact h
  | searching => exact h.windowByte b
  | reading =>
    dsimp only
    split
    · exact h.truncateBurst
    · exact h.appendByte b

theorem SameFramer.checkInterByte (h : SameFramer s s') : SameFramer (checkInterByte s) (checkInterByte s') := by
  unfold Machine.checkInterByte
  rw [h.fst, h.cfg, h.lbt, h.now]
  cases s.fst with
  | noCarrier => exact h
  | searching => exact h
  | reading =>
    dsimp only
    split
    · exact h.endBurst s.now
    · exact h

theorem SameFramer.tickBody (h : SameFramer s s') : SameFramer (tickBody s) (tickBody s') :=
  ((sameFramer_checkDeadline _).symm.trans h.checkInterByte).trans (sameFramer_checkDeadline _)

theorem SameFramer.fresetBody (h : SameFramer s s') : SameFramer (fresetBody s) (fresetBody s') := by
  unfold Machine.fresetBody
  rw [h.fst]
  cases s.fst with
  | noCarrier => exact h
  | searching => exact h.enterNoCarrier
  | reading => exact h.enterNoCarrier

/-- The effect of each command on the Framer depends on the Framer alone. -/
theorem SameFramer.effect (h : SameFramer s s') (i : Instr) : SameFramer (effect i s) (effect i s') := by
  cases i with
  | nop => exact h
  | carrier p => exact h.carrierBody p
  | byte b => exact h.byteBody b
  | tick => exact h.tickBody
  | freset => exact h.fresetBody

end

/-- A command takes two states with the same Framer to two states with the same Framer. -/
theorem exec_of_sameFramer {i : Instr} {s s' t : State} (hframer : SameFramer s s') (hfault : s'.fault = s.fault)
    (htlast : s'.tlast = s.tlast) (h : exec i s = .next t) :
    ∃ t', exec i s' = .next t' ∧ SameFramer t t' ∧ t'.tlast = t.tlast ∧ t'.fault = t.fault := by
  obtain ⟨t', h', hend⟩ := exec_of_sameChecks ⟨hfault, htlast, hframer.now, hframer.cfg⟩ h
  refine ⟨t', h', ?_⟩
  rcases hend with ⟨code, rfl, rfl⟩ | ⟨rfl, rfl⟩
  · exact ⟨{ hframer with }, htlast, rfl⟩
  · have hbegin : SameFramer (beginStep s) (beginStep s') := { hframer with }
    exact ⟨hbegin.effect i, by simp [hframer.now], by simp [hfault]⟩

/-- Settles O45: the Framer registers by the operations above, and the Framer's events by the change of FST (R84). -/
theorem framerIgnoresTheTransport : Obligations.FramerIgnoresTheTransport := by
  intro i s t h d f m hexec
  obtain ⟨t', hexec', hframer, htlast, hfault⟩ :=
    exec_of_sameFramer (s := s) (s' := { s with hist := h, dl := d, flush := f, tst := m })
      ⟨rfl, rfl, rfl, rfl, rfl, rfl⟩ rfl rfl hexec
  refine ⟨t', hexec', hframer.fst, hframer.win, hframer.pbuf, hframer.lbt, htlast, hfault, ?_⟩
  rw [framerEventsNameTheStateChange i _ t' hexec', framerEventsNameTheStateChange i s t hexec, hframer.fst]

/-! ### The Transport does not read the Framer -/

/-- Two states with the same Transport registers, outputs of the Transport and time. -/
structure SameTransport (s s' : State) : Prop where
  hist : s'.hist = s.hist
  dl : s'.dl = s.dl
  flush : s'.flush = s.flush
  tst : s'.tst = s.tst
  now : s'.now = s.now
  evout : s'.evout = s.evout
  decReq : s'.decReq = s.decReq

/-- The cycle is due in both or in neither (R92). -/
theorem SameTransport.due_iff {s s' : State} (h : SameTransport s s') : Due s' ↔ Due s := by
  unfold Due
  rw [h.hist, h.flush, h.dl, h.now]

/-- The same cycle is finalized with the same report (R100). -/
theorem SameTransport.finalize {s s' : State} (h : SameTransport s s') : SameTransport (finalize s) (finalize s') :=
  ⟨rfl, rfl, rfl, rfl, h.now, by simp [h.evout, h.hist], by simp [h.hist]⟩

theorem SameTransport.checkDeadline {s s' : State} (h : SameTransport s s') :
    SameTransport (checkDeadline s) (checkDeadline s') := by
  by_cases hdue : Due s
  · rw [checkDeadline_of_due hdue, checkDeadline_of_due (h.due_iff.2 hdue)]
    exact h.finalize
  · rw [checkDeadline_of_not_due hdue, checkDeadline_of_not_due (mt h.due_iff.1 hdue)]
    exact h

/-- A TICK with no timeout is the deadline check alone (R90). -/
theorem tickBody_of_not_timedOut {s : State} (h : ¬ TimedOut s) : tickBody (beginStep s) = checkDeadline (beginStep s) :=
  congrArg Machine.checkDeadline (checkInterByte_of_not_timedOut (s := beginStep s) h)

/-- A TICK with no timeout takes two states with the same Transport to two states with the same Transport. -/
theorem exec_tick_of_sameTransport {s s' t : State} (htimeout : ¬ TimedOut s) (htimeout' : ¬ TimedOut s')
    (hchecks : SameChecks s s') (htransport : SameTransport s s') (h : exec .tick s = .next t) :
    ∃ t', exec .tick s' = .next t' ∧ SameTransport t t' ∧ t'.fault = t.fault := by
  obtain ⟨t', h', hend⟩ := exec_of_sameChecks hchecks h
  obtain ⟨hfault, -, -, -⟩ := hchecks
  refine ⟨t', h', ?_⟩
  rcases hend with ⟨code, rfl, rfl⟩ | ⟨rfl, rfl⟩
  · exact ⟨{ htransport with evout := rfl, decReq := rfl }, rfl⟩
  · have hbegin : SameTransport (beginStep s) (beginStep s') := { htransport with evout := rfl, decReq := rfl }
    refine ⟨?_, by simp [hfault]⟩
    rw [effect, tickBody_of_not_timedOut htimeout, tickBody_of_not_timedOut htimeout']
    exact hbegin.checkDeadline

/-- Settles O46: with no timeout a TICK is the deadline check, which reads the Transport alone. -/
theorem transportIgnoresTheFramer : Obligations.TransportIgnoresTheFramer := by
  intro s t f w p l hexec htimeout htimeout'
  obtain ⟨t', hexec', h, hfault⟩ :=
    exec_tick_of_sameTransport htimeout htimeout' ⟨rfl, rfl, rfl, rfl⟩ ⟨rfl, rfl, rfl, rfl, rfl, rfl, rfl⟩ hexec
  exact ⟨t', hexec', h.hist, h.dl, h.flush, h.tst, h.evout, h.decReq, hfault⟩

end Sys2Proof.Machine
end

section
/-! PROOFS. The times that a command stores (spec 41 R93, R105, 60 R114): a burst arrives at `now`, and its deadline is
`HOLD_OFF` later, which the time checks keep representable. -/

namespace Sys2Proof.Machine

/-- The step from `s` to `t` fills slots at `now` only, and keeps the deadline, clears it or restarts it at `now`. -/
structure StoresNow (s t : State) : Prop where
  arrivals : ∀ b ∈ t.hist, b ∈ s.hist ∨ b.arrival = s.now
  deadline : t.dl = s.dl ∨ t.dl = 0 ∨ t.dl = s.now + s.cfg.holdOff

theorem storesNow_of_keepsTransport {s t : State} (h : KeepsTransport (beginStep s) t) : StoresNow s t where
  arrivals _ hb := .inl (h.hist ▸ hb)
  deadline := .inl h.dl

/-- The end of a burst fills a slot at `now` and restarts the deadline, or leaves the Transport (R93, R94). -/
theorem storesNow_endedBurst (p : List Byte) (lbt : Nat) (truncated : Bool) (s : State) :
    StoresNow s (endedBurst p lbt truncated s) := by
  by_cases hheld : s.hist.length = 3
  · exact storesNow_of_keepsTransport (keepsTransport_endedBurst_of_full hheld p lbt truncated)
  · rw [endedBurst_of_room hheld]
    refine ⟨fun b hb => ?_, .inr (.inr rfl)⟩
    rcases List.mem_append.1 hb with hold | hnew
    · exact .inl hold
    · exact .inr (congrArg Slot.arrival (List.mem_singleton.1 hnew))

/-- The deadline check stores no time (R92, R100). -/
theorem StoresNow.checkDeadline {s t : State} (h : StoresNow s t) : StoresNow s (checkDeadline t) := by
  rcases checkDeadline_cases t with ⟨-, e⟩ | ⟨-, e⟩ <;> rw [e]
  · exact ⟨List.forall_mem_nil _, .inr (.inl rfl)⟩
  · exact h

theorem storesNow_checkInterByte (s : State) : StoresNow s (checkInterByte (beginStep s)) := by
  rcases checkInterByte_cases (beginStep s) with ⟨-, e⟩ | ⟨-, e⟩ <;> rw [e]
  · exact storesNow_endedBurst s.pbuf s.lbt false s
  · exact storesNow_of_keepsTransport (.refl _)

/-- Of the times, the effect of a command stores `now` and the deadline that follows from it. -/
theorem storesNow_effect (i : Instr) (s : State) : StoresNow s (effect i (beginStep s)) := by
  by_cases hi : i = .tick
  · subst hi
    exact (storesNow_checkInterByte s).checkDeadline
  · rcases effect_transport_cases hi s with hkeeps | ⟨-, e⟩ | ⟨-, -, -, -, p, lbt, truncated, e⟩
    · exact storesNow_of_keepsTransport hkeeps
    · exact e ▸ ⟨fun _ => .inl, .inl rfl⟩
    · exact e ▸ storesNow_endedBurst p lbt truncated s

/-- With a legal HOLD_OFF (R13), the deadline of a burst that arrives at a time in range fits in `TIME_W` bits (R105). -/
theorem deadline_fits {c : Config} {n : Nat} (hc : c.legal = true) (hn : n ≤ 2 ^ c.timeW - 1 - c.holdOff) :
    n + c.holdOff < 2 ^ c.timeW := by
  obtain ⟨-, -, -, hholdOff⟩ := legal_iff.1 hc
  omega

/-- Settles O8: the two time faults are the frame's, and a command that passes the checks has its effect. -/
theorem timeChecksComeBeforeEveryEffect : Obligations.TimeChecksComeBeforeEveryEffect := by
  intro i s hfault
  refine ⟨fun hback => ?_, fun hpast hbeyond => ?_, fun hpast hrange => ?_⟩
  · exact (exec_eq_frame i s).trans (frame_of_time_back hfault hback)
  · exact (exec_eq_frame i s).trans (frame_of_time_beyond hfault hpast hbeyond)
  · obtain ⟨harrivals, hdeadline⟩ := storesNow_effect i s
    refine ⟨_, exec_of_accepts i ⟨hfault, hpast, hrange⟩, by simp [hfault], by simp, harrivals, fun hlegal => ?_⟩
    rcases hdeadline with e | e | e
    · exact .inl e
    · exact .inr (e ▸ Nat.two_pow_pos _)
    · exact .inr (e ▸ deadline_fits hlegal hrange)

end Sys2Proof.Machine
end

section
/-! PROOFS. A block with a fault (spec 60 R117, R118): it takes no command, and the one step it has is a hardware reset. -/

namespace Sys2Proof.Machine

/-- No command has a step (R117). -/
theorem exec_of_faulted (i : Instr) {s : State} (h : s.fault ≠ .none) : exec i s = .fault (.stuck s.fault) := by
  rw [exec_eq_frame, frame, if_pos h]

/-- What acts on a block with a fault: nothing, or the first hardware reset among the inputs. -/
theorem fetch_of_faulted {s : State} (h : s.fault ≠ .none) :
    (.reset ∉ s.input ∧ fetch s = .stuck s.fault)
    ∨ ∃ before rest, s.input = before ++ .reset :: rest ∧ .reset ∉ before ∧ fetch s = .reset rest := by
  unfold fetch
  rw [if_neg h]
  rcases dropCommands_cases s.input with ⟨e, hnone⟩ | ⟨before, rest, hinput, hfirst, e⟩ <;> rw [e]
  · exact .inl ⟨hnone, rfl⟩
  · exact .inr ⟨before, rest, hinput, hfirst, rfl⟩

/-- With no hardware reset supplied there is no step; otherwise the step is the first one. -/
theorem step_of_faulted {s : State} (h : s.fault ≠ .none) :
    (.reset ∉ s.input ∧ step s = .fault (.stuck s.fault))
    ∨ ∃ before rest, s.input = before ++ .reset :: rest ∧ .reset ∉ before ∧ step s = .next (hardwareReset rest s) := by
  rcases fetch_of_faulted h with ⟨hnone, e⟩ | ⟨before, rest, hinput, hfirst, e⟩
  · exact .inl ⟨hnone, by simp only [step, e]⟩
  · exact .inr ⟨before, rest, hinput, hfirst, by simp only [step, e]⟩

/-- Settles O9: the frame of a command stops first, and so does a step that finds no hardware reset. -/
theorem faultedBlockHasNoStep : Obligations.FaultedBlockHasNoStep := by
  intro s hfault
  refine ⟨fun i => exec_of_faulted i hfault, fun hnone => ?_⟩
  rcases step_of_faulted hfault with ⟨-, e⟩ | ⟨before, rest, hinput, -, -⟩
  · exact e
  · exact absurd (hinput ▸ List.mem_append_right before List.mem_cons_self) hnone

/-- Settles O10: a block with a fault that steps has found a hardware reset. -/
theorem onlyHardwareResetLeavesAFault : Obligations.OnlyHardwareResetLeavesAFault := by
  intro s t hfault hstep
  rcases step_of_faulted hfault with ⟨-, e⟩ | ⟨before, rest, hinput, hfirst, e⟩
  · cases e.symm.trans hstep
  · exact ⟨before, rest, hinput, hfirst, (Host.Outcome.next.inj (e.symm.trans hstep)).symm⟩

end Sys2Proof.Machine
end

section
/-! PROOFS. A host that keeps its duties (spec 70 R137): legal words at legal times, so every input is taken and no fault
is met. -/

namespace Sys2Proof.Machine

/-! ### The legal words are the commands' words (R62) -/

/-- A word between 0x0200 and 0x02FF is the word of a BYTE (R62). -/
theorem exists_encode_byte_eq {w : CmdWord} (hlow : 0x0200 ≤ w) (hhigh : w ≤ 0x02FF) : ∃ b, encode (.byte b) = w := by
  have hlow' : 0x0200 ≤ w.toNat := hlow
  have hhigh' : w.toNat ≤ 0x02FF := hhigh
  have hz : (zField w).toNat = 0 := by
    rw [zField, BitVec.extractLsb'_toNat, Nat.shiftRight_eq_div_pow]
    omega
  have hop : (opField w).toNat = 0b010 := by
    rw [opField, BitVec.extractLsb'_toNat, Nat.shiftRight_eq_div_pow]
    omega
  exact ⟨dField w, encode_eq_of_fields (BitVec.eq_of_toNat_eq hz) (BitVec.eq_of_toNat_eq hop) rfl⟩

/-- A legal word is the word of a command (R62). -/
theorem exists_decode_of_legalWord {w : CmdWord} (h : legalWord w = true) : ∃ i, decode w = .instr i := by
  simp only [legalWord, Bool.or_eq_true, Bool.and_eq_true, decide_eq_true_eq] at h
  rcases h with ((((rfl | rfl) | rfl) | ⟨hlow, hhigh⟩) | rfl) | rfl
  · exact ⟨_, decode_encode .nop⟩
  · exact ⟨_, decode_encode (.carrier false)⟩
  · exact ⟨_, decode_encode (.carrier true)⟩
  · obtain ⟨b, rfl⟩ := exists_encode_byte_eq hlow hhigh
    exact ⟨_, decode_encode (.byte b)⟩
  · exact ⟨_, decode_encode .tick⟩
  · exact ⟨_, decode_encode .freset⟩

/-! ### One input for each step -/

/-- A hardware reset at the head of the input of a block without a fault (R131). -/
theorem step_of_reset {s : State} {rest : List HostInput} (hfault : s.fault = .none)
    (hinput : s.input = .reset :: rest) : step s = .next (hardwareReset rest s) := by
  have hfetch : fetch s = .reset rest := by
    unfold fetch
    rw [if_pos hfault, hinput]
  simp only [step, hfetch]

/-- What the duties say of a command and of the inputs after it (R137). -/
theorem dutiful_command {c : Config} {last : Nat} {k : Command} {rest : List HostInput} :
    Dutiful c last (.command k :: rest) = true ↔
      legalWord k.word = true ∧ last ≤ k.now ∧ k.now ≤ 2 ^ c.timeW - 1 - c.holdOff ∧ Dutiful c k.now rest = true := by
  simp [Dutiful, and_assoc]

/-- A block without a fault whose host keeps its duties on what is left of the inputs. -/
structure Served (s : State) : Prop where
  no_fault : s.fault = .none
  dutiful : Dutiful s.cfg s.tlast s.input = true

/-- The step that takes the first input: a hardware reset starts time again (R132), and a command passes the checks. -/
theorem step_of_served {s : State} {x : HostInput} {rest : List HostInput} (h : Served s)
    (hinput : s.input = x :: rest) : ∃ t, step s = .next t ∧ t.input = rest ∧ Served t := by
  obtain ⟨hfault, hdutiful⟩ := h
  rw [hinput] at hdutiful
  cases x with
  | reset => exact ⟨_, step_of_reset hfault hinput, rfl, rfl, hdutiful⟩
  | command c =>
    obtain ⟨hword, hpast, hrange, hdutiful⟩ := dutiful_command.1 hdutiful
    obtain ⟨i, hdecode⟩ := exists_decode_of_legalWord hword
    have haccepts : Accepts (takeCommand c rest s) := ⟨hfault, hpast, hrange⟩
    refine ⟨_, (step_of_command hfault hinput hdecode).trans (exec_of_accepts i haccepts), by simp, ?_, ?_⟩
    · simpa using hfault
    · simpa using hdutiful

/-- A run takes one input for each step, by induction on its length. -/
theorem run_of_served {k : Nat} {s : State} (h : Served s) (hk : k ≤ s.input.length) :
    ∃ t, Host.Core.run Sys2Proof.core k s = .next t ∧ t.input = s.input.drop k ∧ Served t := by
  induction k generalizing s with
  | zero => exact ⟨s, rfl, rfl, h⟩
  | succ k ih =>
    obtain ⟨x, rest, hinput⟩ := List.exists_cons_of_length_pos (Nat.zero_lt_of_lt hk)
    obtain ⟨t, hstep, rfl, hserved⟩ := step_of_served h hinput
    rw [run_succ_of_next hstep, hinput, List.drop_succ_cons]
    rw [hinput] at hk
    exact ih hserved (Nat.le_of_succ_le_succ hk)

/-- Settles O54: the state after every run up to the number of inputs is served too, so it has no fault. -/
theorem dutifulHostNeverSeesAFault : Obligations.DutifulHostNeverSeesAFault := by
  intro s hfault hdutiful k hk
  obtain ⟨t, hrun, hinput, hserved⟩ := run_of_served ⟨hfault, hdutiful⟩ hk
  exact ⟨t, hrun, hserved.no_fault, hinput⟩

end Sys2Proof.Machine
end

section
/-! PROOFS. The hardware reset (spec 70 R131 to R133): in any state it is one step to the reset values, from which the block
accepts a first command at any time in range. -/

namespace Sys2Proof.Machine

/-- A hardware reset at the head of the input acts on the block next, with a fault or without one (R131). -/
theorem fetch_of_reset {s : State} {rest : List HostInput} (hinput : s.input = .reset :: rest) :
    fetch s = .reset rest := by
  unfold fetch
  rw [hinput]
  by_cases hfault : s.fault = .none
  · exact if_pos hfault
  · exact if_neg hfault

/-- A hardware reset at the head of the input is one step in every state (R131). -/
theorem step_of_reset_in_any_state {s : State} {rest : List HostInput} (hinput : s.input = .reset :: rest) :
    step s = .next (hardwareReset rest s) := by
  simp only [step, fetch_of_reset hinput]

/-- Settles O11: a hardware reset is read from the input in every state and writes the reset values; a block with a fault
that steps has found one. -/
theorem hardwareResetSetsEveryRegister : Obligations.HardwareResetSetsEveryRegister := by
  refine ⟨fun s rest hinput => ⟨_, step_of_reset_in_any_state hinput, ?_⟩, fun s t hfault hstep => ?_⟩
  · exact ⟨rfl, rfl, rfl, rfl, rfl, rfl, rfl, rfl, rfl, rfl, rfl, rfl, rfl⟩
  · obtain ⟨before, rest, hinput, -, rfl⟩ := onlyHardwareResetLeavesAFault s t hfault hstep
    exact ⟨rfl, hinput ▸ List.mem_append_right before List.mem_cons_self⟩

/-- Settles O12: every register by the reset state, every slot by the empty history, STATUS by its fields at 0. -/
theorem resetValuesOfEveryRegister : Obligations.ResetValuesOfEveryRegister :=
  ⟨rfl, rfl, rfl, rfl, rfl, rfl, rfl, fun _ => ⟨rfl, rfl⟩, rfl, rfl, rfl, rfl, rfl, rfl⟩

/-- Settles O13: with no input nothing is fetched; at reset TLAST is 0, so a first command in range passes the checks, and
its effect leaves FAULT and the time of the step. -/
theorem firstCommandAfterResetIsAccepted : Obligations.FirstCommandAfterResetIsAccepted := by
  refine ⟨rfl, fun i n hrange => ?_⟩
  have hstep := step_of_command (s := { State.reset with input := [.command { word := encode i, now := n }] })
    rfl rfl (decode_encode i)
  refine ⟨_, hstep.trans (exec_of_accepts i ⟨rfl, Nat.zero_le n, hrange⟩), ?_, ?_⟩
  · exact effect_fault i _
  · exact effect_tlast i _

end Sys2Proof.Machine
end

section
/-! PROOFS. A host that issues no TICK (spec 70 R138): the block reads no input that the host did not supply, and no other
input makes it report. -/

namespace Sys2Proof.Machine

/-- What is left after a hardware reset is the end of what was supplied (R118, R131). -/
theorem suffix_of_fetch_reset {s : State} {rest : List HostInput} (h : fetch s = .reset rest) : rest <:+ s.input := by
  by_cases hfault : s.fault = .none
  · unfold fetch at h
    rw [if_pos hfault] at h
    split at h
    case h_1 => cases h
    case h_2 rest' hinput =>
      cases h
      exact hinput ▸ List.suffix_cons _ _
    case h_3 => cases h
  · rcases fetch_of_faulted hfault with ⟨-, e⟩ | ⟨before, rest', hinput, -, e⟩
    · cases e.symm.trans h
    · cases e.symm.trans h
      exact hinput ▸ (List.suffix_cons _ rest).trans (List.suffix_append before _)

/-- A command takes no further input: its own was taken before it runs (R56). -/
theorem exec_next_input {i : Instr} {s t : State} (h : exec i s = .next t) : t.input = s.input := by
  rcases exec_next h with ⟨-, -, rfl⟩ | ⟨-, -, -, rfl⟩ | ⟨-, rfl⟩
  · exact raiseFault_input _ s
  · exact raiseFault_input _ s
  · exact (effect_input i _).trans (beginStep_input s)

/-- Every step leaves an end of what the host has supplied: no input is added or reordered (R56, R118). -/
theorem step_next_input_suffix {s t : State} (h : step s = .next t) : t.input <:+ s.input := by
  rcases step_next h with ⟨rest, rfl, hfetch⟩ | ⟨-, c, rest, hinput, ⟨_, -, rfl⟩ | ⟨i, -, hexec⟩⟩
  · exact suffix_of_fetch_reset hfetch
  · exact hinput ▸ List.suffix_cons _ rest
  · rw [exec_next_input hexec, hinput]
    exact List.suffix_cons _ rest

/-- No word that the host supplies decodes to TICK (R138). -/
def NoTick (l : List HostInput) : Prop := ∀ c, .command c ∈ l → decode c.word ≠ .instr .tick

/-- What is left of inputs without a TICK holds none. -/
theorem NoTick.of_suffix {l l' : List HostInput} (h : NoTick l) (hsuffix : l' <:+ l) : NoTick l' :=
  fun c hc => h c (hsuffix.subset hc)

/-- A step whose input is not a TICK reports nothing: a hardware reset and a fault emit no event, and of the commands only
TICK emits Ready (R90, R111). -/
theorem step_reports_nothing_of_noTick {s t : State} (hno : NoTick s.input) (h : step s = .next t) (r : DecodeResult) :
    .ready r ∉ t.evout := by
  rcases step_next h with ⟨rest, rfl, -⟩ | ⟨-, c, rest, hinput, ⟨_, -, rfl⟩ | ⟨i, hdecode, hexec⟩⟩
  · exact List.not_mem_nil
  · exact List.not_mem_nil
  · have hi : i ≠ .tick := fun e => hno c (hinput ▸ List.mem_cons_self) (e ▸ hdecode)
    obtain ⟨-, hquiet, -⟩ := silent_of_ne_tick hi hexec
    exact hquiet r

/-- Settles O55: by induction on the length of the run, since the inputs left after each step hold no TICK either. -/
theorem noReadyWithoutATick : Obligations.NoReadyWithoutATick := by
  intro s k hno r
  induction k generalizing s with
  | zero => exact List.not_mem_nil
  | succ k ih =>
    cases hstep : step s with
    | next t =>
      rw [runEvents_succ_of_next hstep, List.mem_append, not_or]
      exact ⟨step_reports_nothing_of_noTick hno hstep r,
        ih t (NoTick.of_suffix hno (step_next_input_suffix hstep))⟩
    | fault f => simp [runEvents, hstep]
    | refused f => simp [runEvents, hstep]

end Sys2Proof.Machine
end
